-- ==== Sys2Proof/Word.lean ====
section
/-! DEFINITION. The byte, the one word of the trolley line's telegrams. -/

namespace Sys2Proof

/-- One byte of a telegram's payload (R155, R190). -/
abbrev Byte := BitVec 8

end Sys2Proof
end

