-- ==== Sys2Proof/Syntax.lean ====
section
/-! DEFINITION. The commands of the station: one constructor of `Instr` per row of spec/opcode_table.json. The rows name no
operands: the operands here are the data the event brings from outside (DESIGN CHOICE, safe, log 15). -/

namespace Sys2Proof

/-- The levels of the two odometer phase inputs, sampled together (R1). -/
structure Phase where
  a : Bool
  b : Bool
deriving DecidableEq, Repr

/-- The header of a telegram as its bits were received, the start bit left out (R155). -/
structure Header where
  cls    : BitVec 3
  sender : BitVec 4
  target : BitVec 5
  kind   : BitVec 4
  length : BitVec 8
deriving DecidableEq, Repr

/-- An echo record of the echo port (R51). -/
structure EchoRecord where
  element   : Fin 64
  tof       : BitVec 20
  amplitude : Byte
  saturated : Bool
  codeMatch : Bool
deriving DecidableEq, Repr

/-- The commands, in the order of the table. -/
inductive Instr where
  /-- POWER_OR_PIN_RESET (R178): the levels of the straps and of the phase inputs as reset ends. -/
  | powerOrPinReset (straps : BitVec 4) (pair : Phase)
  /-- PHASE_TRANSITION (R1): the newly sampled pair. -/
  | phaseTransition (pair : Phase)
  /-- LOCAL_STOP (R166): a falling edge of the local stop input. -/
  | localStop
  /-- BREAK_SEND_END (R166): the 32 bit times of the station's break are over. -/
  | breakSendEnd
  /-- BREAK_DETECTED (R165): the line has been dominant for 24 bit times. -/
  | breakDetected
  /-- LINE_IDLE (R156): the line has been recessive for 11 bit times. -/
  | lineIdle
  /-- HEADER_END (R158): the header's bits as received. -/
  | headerEnd (h : Header)
  /-- CHECK_SEQUENCE_END (R159): the payload bytes and the check sequence as received. -/
  | checkSequenceEnd (payload : List Byte) (check : BitVec 16)
  /-- QUIET_SPELL (R157): a stretch with no transition, dominant or recessive, of so many bit times. -/
  | quietSpell (dominant : Bool) (bits : Nat)
  /-- CONTENTION_LOST (R162). -/
  | contentionLost
  /-- READBACK_MISMATCH (R163). -/
  | readbackMismatch
  /-- READBACK_TRANSITION (R163). -/
  | readbackTransition
  /-- TRANSMISSION_COMPLETION (R164). -/
  | transmissionCompletion
  /-- SETUP (R171): the handler takes a SETUP telegram. -/
  | setup
  /-- START (R173): the handler takes a START telegram. -/
  | start
  /-- RESTART (R178): the handler takes a RESTART telegram. -/
  | restart
  /-- EDGE (R118): the handler takes an EDGE telegram. -/
  | edge
  /-- ALERT_RAISE (R145): the handler takes an ALERT telegram of phase RAISE. -/
  | alertRaise
  /-- ALERT_END (R146): the handler takes an ALERT telegram of phase END. -/
  | alertEnd
  /-- STATUS_REQ (R187): the handler takes a STATUS_REQ telegram. -/
  | statusReq
  /-- CLEAR (R186): the handler takes a CLEAR telegram. -/
  | clear
  /-- DRAIN (R105): the handler takes a DRAIN telegram. -/
  | drain
  /-- SETTLE_EXPIRY (R17). -/
  | settleExpiry
  /-- CANT_COMPLETION (R21): the code of the CANT conversion. -/
  | cantCompletion (code : BitVec 12)
  /-- SUPPLY_COMPLETION (R25): the code of the SUPPLY conversion. -/
  | supplyCompletion (code : BitVec 12)
  /-- TEMP_COMPLETION (R26): the code of the TEMP conversion. -/
  | tempCompletion (code : BitVec 12)
  /-- SCAN_INTERVAL_EXPIRY (R23). -/
  | scanIntervalExpiry
  /-- DWELL_EXPIRY (R41). -/
  | dwellExpiry
  /-- GAP_EXPIRY (R42). -/
  | gapExpiry
  /-- ECHO_RECORD (R52): the arriving echo record. -/
  | echoRecord (e : EchoRecord)
  /-- WINDOW_TIMER_EXPIRY (R98): the section number of the record whose timer expires. -/
  | windowTimerExpiry (number : Nat)
  /-- FIRST_TRANSITION (R156). -/
  | firstTransition
  /-- RESET_ASSERTED (R179). -/
  | resetAsserted
deriving DecidableEq, Repr

end Sys2Proof
end

