-- ==== Sys2Proof/Decode.lean ====
section
/-! DEFINITION. The commands a word of the opcode table's bits spells. No row of spec/opcode_table.json gives bits (its rows
carry no match, mask or pattern), so no word spells a command (log 5). -/

namespace Sys2Proof

/-- The command spelled by a word of `nbits` bits: none, for the table gives no row a bit. -/
def decodeTableWord (nbits w : Nat) : Option Instr :=
  match nbits, w with
  | _, _ => none

end Sys2Proof
end

