-- ==== Sys2Proof/Config.lean ====
section
/-! DEFINITION. The constants the spec fixes for the part. No value of the spec is left open, so there is no free value here. -/

namespace Sys2Proof.Config

/-- Largest position count (R4). -/
def posMax : Int := 2147483647
/-- Smallest position count (R4). -/
def posMin : Int := -2147483648
/-- The last section number that can be triggered (R8). -/
def lastSection : Nat := 16777215
/-- Saturation of every error count and of the foreign count (R181, R54). -/
def countMax : Nat := 65535
/-- Section records in the store (R92). -/
def storeCapacity : Nat := 8
/-- Watch table records, local and peer together (R133). -/
def watchCapacity : Nat := 16
/-- Telegrams in the receive queue (R160). -/
def queueCapacity : Nat := 4
/-- Telegrams in transmit group A (R161). -/
def groupACapacity : Nat := 4
/-- Telegrams in transmit group B (R161). -/
def groupBCapacity : Nat := 8
/-- Telegrams in transmit group C (R161). -/
def groupCCapacity : Nat := 8
/-- DRAINED telegrams in the owed-telegram list (R148). -/
def owedDrainedMax : Nat := 8
/-- Entries of one report part (R102). -/
def partEntries : Nat := 26
/-- Entries of an EDGE, and bins of a zone (R112, R118). -/
def edgeEntriesMax : Nat := 32
/-- The dominant stretch, in bit times, that is a break (R154, R165). -/
def breakBits : Nat := 24
/-- The bit times for which a station drives its break (R154, R166). -/
def breakSendBits : Nat := 32
/-- The recessive stretch, in bit times, after which the line is idle (R154, R156). -/
def idleBits : Nat := 11
/-- The target that names every station (R155). -/
def everyStation : Nat := 31
/-- The full turn in turn units (00_scope.md, Angle). -/
def turn : Nat := 65536
/-- LINE_TIMEOUT until item 31 is stored (09, opening). -/
def lineTimeoutDefault : Nat := 48
/-- WARN until item 29 is stored (05, opening). -/
def warnDefault : Nat := 500

end Sys2Proof.Config
end

