-- ==== Sys2Proof/Machine/Arith.lean ====
section
/-! DEFINITION. The station's arithmetic: the two roundings (00_scope.md, Roundings), the integer square root, the sine table
(R59) and its interpolation (R60). -/

namespace Sys2Proof.Machine

/-- The quotient p / q rounded to the nearest integer, an exact half away from zero (00_scope.md, Roundings). -/
def roundHalfAway (p : Int) (q : Nat) : Int :=
  if p < 0 then -(((2 * p.natAbs + q) / (2 * q) : Nat) : Int) else (((2 * p.natAbs + q) / (2 * q) : Nat) : Int)

/-- The non-negative quotient p / q rounded to the nearest integer, an exact half up (00_scope.md, Roundings). -/
def roundHalfUp (p q : Nat) : Nat := (2 * p + q) / (2 * q)

/-- A number brought into lo..hi (R172). -/
def clampNat (lo hi v : Nat) : Nat := max lo (min v hi)

/-- A signed number brought into lo..hi (R172). -/
def clampInt (lo hi v : Int) : Int := max lo (min v hi)

/-- The square root of `n`, decided bit by bit from bit `k - 1` down, above the bits already in `r`. -/
def isqrtBits (n : Nat) : Nat → Nat → Nat
  | 0, r => r
  | k + 1, r => if (r + 2 ^ k) * (r + 2 ^ k) ≤ n then isqrtBits n k (r + 2 ^ k) else isqrtBits n k r

/-- The integer square root: the greatest integer whose square does not exceed `n` (00_scope.md, Roundings). -/
def isqrt (n : Nat) : Nat := isqrtBits n (n.log2 / 2 + 1) 0

/-- The sine table's entries S[0..255], 32 a row (R59). -/
def quarterRows : List (List Nat) :=
  [[0, 201, 402, 603, 804, 1005, 1206, 1407, 1608, 1809, 2009, 2210, 2410, 2611, 2811, 3012,
    3212, 3412, 3612, 3811, 4011, 4210, 4410, 4609, 4808, 5007, 5205, 5404, 5602, 5800, 5998, 6195],
   [6393, 6590, 6786, 6983, 7179, 7375, 7571, 7767, 7962, 8157, 8351, 8545, 8739, 8933, 9126, 9319,
    9512, 9704, 9896, 10087, 10278, 10469, 10659, 10849, 11039, 11228, 11417, 11605, 11793, 11980, 12167, 12353],
   [12539, 12725, 12910, 13094, 13279, 13462, 13645, 13828, 14010, 14191, 14372, 14553, 14732, 14912, 15090, 15269,
    15446, 15623, 15800, 15976, 16151, 16325, 16499, 16673, 16846, 17018, 17189, 17360, 17530, 17700, 17869, 18037],
   [18204, 18371, 18537, 18703, 18868, 19032, 19195, 19357, 19519, 19680, 19841, 20000, 20159, 20317, 20475, 20631,
    20787, 20942, 21096, 21250, 21403, 21554, 21705, 21856, 22005, 22154, 22301, 22448, 22594, 22739, 22884, 23027],
   [23170, 23311, 23452, 23592, 23731, 23870, 24007, 24143, 24279, 24413, 24547, 24680, 24811, 24942, 25072, 25201,
    25329, 25456, 25582, 25708, 25832, 25955, 26077, 26198, 26319, 26438, 26556, 26674, 26790, 26905, 27019, 27133],
   [27245, 27356, 27466, 27575, 27683, 27790, 27896, 28001, 28105, 28208, 28310, 28411, 28510, 28609, 28706, 28803,
    28898, 28992, 29085, 29177, 29268, 29358, 29447, 29534, 29621, 29706, 29791, 29874, 29956, 30037, 30117, 30195],
   [30273, 30349, 30424, 30498, 30571, 30643, 30714, 30783, 30852, 30919, 30985, 31050, 31113, 31176, 31237, 31297,
    31356, 31414, 31470, 31526, 31580, 31633, 31685, 31736, 31785, 31833, 31880, 31926, 31971, 32014, 32057, 32098],
   [32137, 32176, 32213, 32250, 32285, 32318, 32351, 32382, 32412, 32441, 32469, 32495, 32521, 32545, 32567, 32589,
    32609, 32628, 32646, 32663, 32678, 32692, 32705, 32717, 32728, 32737, 32745, 32752, 32757, 32761, 32765, 32766]]

/-- S[k] for k = 0..256, the first quarter turn and its end. -/
def quarterSine (k : Nat) : Nat :=
  if k < 256 then ((quarterRows.getD (k / 32) []).getD (k % 32) 0) else 32767

/-- The sine table: S[k mod 1024] is sin(2πk/1024) × 32767 rounded half away from zero (R59). The other three quarters follow
from the first by the symmetries of the sine, which this rounding respects. -/
def sineTable (k : Nat) : Int :=
  let i := k % 1024
  if i ≤ 256 then quarterSine i
  else if i ≤ 512 then quarterSine (512 - i)
  else if i ≤ 768 then -(quarterSine (i - 512) : Int)
  else -(quarterSine (1024 - i) : Int)

/-- The cosine table C[k] = S[(k + 256) mod 1024] (R59). -/
def cosineTable (k : Nat) : Int := sineTable (k + 256)

/-- An angle reduced modulo the full turn (00_scope.md, Angle). -/
def reduceAngle (a : Int) : Nat := (a % Config.turn).toNat

/-- The interpolated sine s(a) of an angle in turn units (R60). -/
def sine (a : Int) : Int :=
  let m := reduceAngle a
  let i := m / 64
  let f := m % 64
  sineTable i + roundHalfAway ((sineTable (i + 1) - sineTable i) * f) 64

/-- The interpolated cosine c(a) = s(a + 16384) (R60). -/
def cosine (a : Int) : Int := sine (a + 16384)

end Sys2Proof.Machine
end

