-- ==== Sys2Proof/Machine/State.lean ====
section
/-! DEFINITION. The state of the station, block by block as the spec's chapters open, and its value right after reset. Plain
data throughout. The capacities and ranges are invariants, not types. -/

namespace Sys2Proof.Machine

/-! ### Station control (chapter 10) -/

/-- The station states (R170). -/
inductive Station where
  | config | run | halted | fault
deriving DecidableEq, Repr

/-- Odometer count modes (R2). -/
inductive CountMode where
  | x1 | x2 | x4
deriving DecidableEq, Repr

/-- Item 1 SURVEY. -/
structure Survey where
  spacing   : Nat
  countMode : CountMode
  tofMin    : Nat
  ks        : Nat
  dMin      : Nat
  dMax      : Nat
deriving DecidableEq, Repr

/-- Item 2 HEAD. -/
structure Head where
  mount : Nat
  hx    : Int
  hy    : Int
  gx    : Int
  gy    : Int
deriving DecidableEq, Repr

/-- Dwell classes of an element (R30). -/
inductive DwellClass where
  | short | long
deriving DecidableEq, Repr

/-- One element's part of an item CALIB (R31, R191). -/
structure ElementCalib where
  angle   : Nat
  offset  : Int
  enabled : Bool
  cls     : DwellClass
deriving DecidableEq, Repr

/-- Item 11 SWEEP. -/
structure SweepItem where
  dwellShort     : Nat
  dwellLong      : Nat
  gap            : Nat
  pairing        : Bool
  forwardSuspect : Bool
  ampLo          : Nat
  weakLimit      : Nat
deriving DecidableEq, Repr

/-- The basis of the stitch window (R97, R98). -/
inductive StitchBasis where
  | sections | time
deriving DecidableEq, Repr

/-- A range of bins, both ends included (R71, R112). -/
structure BinRange where
  lo : Nat
  hi : Nat
deriving DecidableEq, Repr

/-- Item 12 ZONES. -/
structure Zones where
  left      : Option Nat
  leftZone  : BinRange
  right     : Option Nat
  rightZone : BinRange
  coverage  : BinRange
  basis     : StitchBasis
  window    : Nat
deriving DecidableEq, Repr

/-- An item 13..24 ENVELOPE, one segment (R74). -/
structure Segment where
  b0 : Nat
  b1 : Nat
  rs : Nat
  re : Nat
deriving DecidableEq, Repr

/-- An item 25..28 EXCLUSION, one window (R34). -/
structure Exclusion where
  start : Nat
  stop  : Nat
deriving DecidableEq, Repr

/-- Item 29 WATCH (R134; WARN belongs to the ring binner). -/
structure WatchItem where
  confirm    : Nat
  clearCount : Nat
  hyst       : Nat
  warn       : Nat
  peerAge    : Nat
  guard      : Nat
deriving DecidableEq, Repr

/-- Item 30 AUX. -/
structure Aux where
  cantZero     : Nat
  cantGain     : Int
  cantLim      : Nat
  supLo        : Nat
  supHyst      : Nat
  tempHi       : Nat
  tempHyst     : Nat
  cantSettle   : Nat
  supSettle    : Nat
  tempSettle   : Nat
  scanPeriod   : Nat
deriving DecidableEq, Repr

/-- Item 31 LINE. -/
structure LineItem where
  timeout   : Nat
  orderCode : Nat
deriving DecidableEq, Repr

/-- Severities of an error kind (R182). -/
inductive Severity where
  | note | degraded | fatal
deriving DecidableEq, Repr

/-- One kind's part of item 32 FAULTS. -/
structure KindPolicy where
  severity : Severity
  masked   : Bool
deriving DecidableEq, Repr

/-- The stored setup: each item's record, or absent (10, opening). -/
structure Setup where
  survey    : Option Survey
  head      : Option Head
  /-- Items 3..10; the item numbered 3 + k is entry k. -/
  calib     : Vector (Option (Vector ElementCalib 8)) 8
  sweep     : Option SweepItem
  zones     : Option Zones
  /-- Items 13..24; the item numbered 13 + j is entry j. -/
  envelope  : Vector (Option Segment) 12
  /-- Items 25..28; the item numbered 25 + w is entry w. -/
  exclusion : Vector (Option Exclusion) 4
  watch     : Option WatchItem
  aux       : Option Aux
  line      : Option LineItem
  faults    : Option (Vector KindPolicy 16)
deriving DecidableEq, Repr

/-- What station control holds (10, opening). -/
structure Control where
  station     : Station
  ownNumber   : BitVec 4
  setup       : Setup
  /-- The setup-received bitmap; the bit of value 2^(k−1) is item k (R171, R191). -/
  marks       : BitVec 32
  failingItem : Option Nat
deriving DecidableEq, Repr

/-! ### Fault recorder (chapter 11) -/

/-- The sixteen error kinds, in the order of the table of R181. -/
inductive ErrKind where
  | rxCheck | rxQuiet | rxOverrun | dupStation | txDropped | setupInvalid | setupRefused | sweepBusy
  | storeFull | edgeUnmatched | watchFull | foreignEcho | cantClamp | supplyWeak | overTemp | odometer
deriving DecidableEq, Repr

/-- One kind's seen flag and count (R181). -/
structure KindRecord where
  seen  : Bool
  count : Nat
deriving DecidableEq, Repr

/-- What the fault recorder holds (11, opening); severities and masks stand in the stored setup (R182). -/
structure Recorder where
  kinds      : Vector KindRecord 16
  firstError : Option ErrKind
  attention  : Bool
deriving DecidableEq, Repr

/-! ### Odometry unit (chapter 1) -/

/-- What the odometry unit holds (01, opening); the count mode stands in the stored setup (R5). -/
structure Odometry where
  phase         : Phase
  pos           : Int
  base          : Option Int
  nextThreshold : Option Int
  nextSection   : Nat
  limitMark     : Bool
deriving DecidableEq, Repr

/-! ### Auxiliary converter (chapter 2) -/

/-- Scan states: IDLE, SECTION and PERIODIC (02, opening). -/
inductive ScanState where
  | idle | sectionScan | periodic
deriving DecidableEq, Repr

/-- The three channels, in scan order (R17). -/
inductive Channel where
  | cant | supply | temp
deriving DecidableEq, Repr

/-- The steps of a conversion (R17); a channel already settling keeps the settle time, in µs, in force when its settling began (R18). -/
inductive ConvStep where
  | settling (micros : Nat)
  | converting
deriving DecidableEq, Repr

/-- The channel in progress and its step. -/
structure Conversion where
  channel : Channel
  step    : ConvStep
deriving DecidableEq, Repr

/-- What the auxiliary converter holds (02, opening). -/
structure Converter where
  scan            : ScanState
  work            : Option Conversion
  cant            : Int
  supplyWeak      : Bool
  overTemp        : Bool
  intervalRunning : Bool
deriving DecidableEq, Repr

/-! ### Emitter sequencer (chapter 3) -/

/-- One element record (R30). -/
structure Element where
  angle   : Nat
  offset  : Int
  enabled : Bool
  cls     : DwellClass
  weakRun : Nat
deriving DecidableEq, Repr

/-- A firing group: its lowest member, whether the member 32 above is paired with it, and its dwell in 0.5 µs (R36, R37). -/
structure FiringGroup where
  lead   : Nat
  paired : Bool
  dwell  : Nat
deriving DecidableEq, Repr

/-- The sweep state; a group is named by its place in the group list, from 0 (R38 to R42). -/
inductive SweepState where
  | idle
  | waiting
  | dwell (k : Nat)
  | gap (k : Nat)
deriving DecidableEq, Repr

/-- The properties of the sweep in flight that are fixed at sweep start (03, opening). -/
structure SweepFixed where
  cant    : Int
  reduced : Bool
deriving DecidableEq, Repr

/-- What the emitter sequencer holds and drives (03, opening; R33). -/
structure Sequencer where
  table  : Option (Vector Element 64)
  groups : List FiringGroup
  sweep  : SweepState
  fixed  : Option SweepFixed
  rows   : BitVec 8
  cols   : BitVec 8
deriving DecidableEq, Repr

/-! ### Echo processor (chapter 4) -/

/-- A member of the open group: its held echoes, oldest first, and its foreign mark (R53). -/
structure Member where
  element : Nat
  held    : List EchoRecord
  foreign : Bool
deriving DecidableEq, Repr

/-- The geometry of a sweep (R61). -/
structure Geometry where
  cant  : Int
  ox    : Int
  oy    : Int
  beams : List Nat
deriving DecidableEq, Repr

/-- What the echo processor holds; no acceptance is CLOSED (04, opening). -/
structure EchoProcessor where
  acceptance : Option (List Member)
  geometry   : Option Geometry
deriving DecidableEq, Repr

/-! ### Section store (chapters 5 to 7) -/

/-- A bin record (R80). -/
structure BinRecord where
  bin       : Nat
  nLast     : Nat
  rSum      : Nat
  cMin      : Option Int
  qBest     : Nat
  suspect   : Bool
  warn      : Bool
  intrusion : Bool
  unpaired  : Bool
  contested : Bool
  ceded     : Bool
deriving DecidableEq, Repr

/-- A set of gap reasons (R11). -/
structure GapReasons where
  halt      : Bool
  hot       : Bool
  busy      : Bool
  storeFull : Bool
deriving DecidableEq, Repr

/-- The four summary fields set at sweep start (R88). -/
structure SweepSummary where
  cant     : Int
  reduced  : Bool
  fired    : Nat
  excluded : Nat
deriving DecidableEq, Repr

/-- The section summary (R88). -/
structure Summary where
  sweep          : Option SweepSummary
  valid          : Nat
  near           : Nat
  far            : Nat
  foreign        : Nat
  suspectDropped : Nat
  cededCount     : Nat
  gapBefore      : Nat
  gapReasons     : GapReasons
  drainMark      : Bool
deriving DecidableEq, Repr

/-- Record states (R92). -/
inductive RecordState where
  | sweeping | held | ready | sending
deriving DecidableEq, Repr

/-- Side states (R96). -/
inductive SideState where
  | none | awaited | settled | closed
deriving DecidableEq, Repr

/-- One entry of an EDGE (R115). -/
structure EdgeEntry where
  bin   : Nat
  qBest : Nat
  nLast : Nat
deriving DecidableEq, Repr

/-- The contents of a received edge that a record holds or applies (R121). -/
structure PeerEdge where
  gap     : Bool
  entries : List EdgeEntry
deriving DecidableEq, Repr

/-- A section record (R92). -/
structure SectionRecord where
  number      : Nat
  state       : RecordState
  bins        : List BinRecord
  summary     : Summary
  leftSide    : SideState
  rightSide   : SideState
  leftEdge    : Option PeerEdge
  rightEdge   : Option PeerEdge
  windowCount : Nat
  windowTimer : Bool
  partsQueued : Nat
deriving DecidableEq, Repr

/-- What the section store holds (06, opening); records stand in ascending section number. -/
structure Store where
  records        : List SectionRecord
  gapCount       : Nat
  gapReasons     : GapReasons
  drainPending   : Bool
  drainTarget    : Option Nat
  drainRequester : Option Nat
deriving DecidableEq, Repr

/-! ### Telegrams the station sends (chapter 12) -/

/-- The contents of an ALERT (R144). -/
structure Alert where
  isEnd          : Bool
  corroborated   : Bool
  id             : Nat
  spanFirst      : Nat
  spanLast       : Nat
  firstSection   : Nat
  currentSection : Nat
  minClearance   : Int
  lastSection    : Nat
deriving DecidableEq, Repr

/-- The side field of an EDGE (R191). -/
inductive EdgeSide where
  | left | right | both
deriving DecidableEq, Repr

/-- The contents of an EDGE or GAP EDGE (R114, R116). -/
structure EdgeBody where
  number  : Nat
  side    : EdgeSide
  gap     : Bool
  entries : List EdgeEntry
deriving DecidableEq, Repr

/-- One entry of a report part (R102). -/
structure ReportEntry where
  bin        : Nat
  suspect    : Bool
  warn       : Bool
  intrusion  : Bool
  unpaired   : Bool
  contested  : Bool
  nLast      : Nat
  qBest      : Nat
  meanRadius : Option Nat
  cMin       : Option Int
deriving DecidableEq, Repr

/-- A report part; part 0 carries the summary (R102, R103). -/
structure ReportPart where
  number  : Nat
  index   : Nat
  count   : Nat
  entries : List ReportEntry
  summary : Option Summary
deriving DecidableEq, Repr

/-- The contents of a STATUS (R187). -/
structure StatusBody where
  station      : Station
  strap        : BitVec 4
  firstError   : Option ErrKind
  kinds        : Vector KindRecord 16
  occupancy    : Nat
  watchInUse   : Nat
  drainPending : Bool
  newest       : Option Nat
  oldest       : Option Nat
  marks        : BitVec 32
  failingItem  : Option Nat
deriving DecidableEq, Repr

/-- The contents of a telegram the station sends, by kind. -/
inductive TelegramBody where
  | alert (a : Alert)
  | status (b : StatusBody)
  | drained (target : Option Nat)
  | edge (e : EdgeBody)
  | report (p : ReportPart)
deriving DecidableEq, Repr

/-- A telegram in a transmit group or in the owed-telegram list: its target and contents, fixed when it was built. -/
structure Telegram where
  target : Nat
  body   : TelegramBody
deriving DecidableEq, Repr

/-! ### Watch unit (chapter 8) -/

/-- States of a local record (R133). -/
inductive WatchState where
  | pending | raised | easing
deriving DecidableEq, Repr

/-- A local record of the watch table (R133); `owed` is its owed field being RAISE. -/
structure LocalRecord where
  first        : Nat
  last         : Nat
  state        : WatchState
  confirm      : Nat
  clearCount   : Nat
  minClearance : Int
  firstSection : Nat
  lastSection  : Nat
  id           : Option Nat
  corroborated : Bool
  owed         : Bool
deriving DecidableEq, Repr

/-- A peer record of the watch table (R133). -/
structure PeerRecord where
  source : Nat
  id     : Nat
  first  : Nat
  last   : Nat
  age    : Nat
deriving DecidableEq, Repr

/-- What the watch unit holds (08, opening); local records stand in ascending first bin (DESIGN CHOICE, safe, log 26). -/
structure Watch where
  locals    : List LocalRecord
  peers     : List PeerRecord
  idCounter : Nat
  owed      : List Telegram
deriving DecidableEq, Repr

/-! ### Line interface (chapter 9) -/

/-- The telegram kinds (R155, R189). -/
inductive Kind where
  | start | restart | alert | statusReq | clear | drain | status | drained | edge | report | setup
deriving DecidableEq, Repr

/-- The receiver (R156). A reception keeps the LINE_TIMEOUT it began under, and its header once the filter has kept it (R158). -/
inductive Receiver where
  | idleWait
  | idle
  | receiving (timeout : Nat) (kept : Option Header)
deriving DecidableEq, Repr

/-- A telegram in the receive queue (R160). -/
structure Received where
  sender  : Nat
  target  : Nat
  kind    : Kind
  payload : List Byte
deriving DecidableEq, Repr

/-- The transmit groups (R161). -/
inductive TxGroup where
  | a | b | c
deriving DecidableEq, Repr

/-- A telegram as it is driven onto the line, the start bit left out (R155). -/
structure Frame where
  header  : Header
  payload : List Byte
  check   : BitVec 16
deriving DecidableEq, Repr

/-- The transmission: the group whose head is being sent, the bits driven, and whether RESTART has condemned the telegram to
leave its group however the transmission ends (R167). -/
structure Transmission where
  group     : TxGroup
  frame     : Frame
  condemned : Bool
deriving DecidableEq, Repr

/-- What the line interface holds (09, opening); `judging` is a readback mismatch awaiting judgement (R163). -/
structure Line where
  rx        : Receiver
  queue     : List Received
  groupA    : List Telegram
  groupB    : List Telegram
  groupC    : List Telegram
  tx        : Option Transmission
  breakSend : Bool
  judging   : Bool
deriving DecidableEq, Repr

/-! ### The station -/

/-- The whole station. `env` is the ring binner's envelope table; `pending` is the model's own queue of waiting commands (log 1). -/
structure State where
  odo           : Odometry
  conv          : Converter
  seq           : Sequencer
  echo          : EchoProcessor
  env           : List (Option Nat)
  store         : Store
  watch         : Watch
  line          : Line
  ctrl          : Control
  recorder      : Recorder
  resetAsserted : Bool
  pending       : List Instr
deriving DecidableEq, Repr

/-- The stops of a command. The spec gives every command an effect in every state, so no command faults and there is no
constructor (safe: nothing is hidden behind a stop). -/
inductive Fault where
deriving DecidableEq, Repr

/-- The refusals. -/
inductive Refusal where
  /-- A row of the table without a meaning, raised by `exec`'s arm for it (safe). No arm raises it: every row has its meaning. -/
  | notModelled (mnemonic : String)
deriving DecidableEq, Repr

/-- No gap reason. -/
def GapReasons.empty : GapReasons := ⟨false, false, false, false⟩

/-- The setup right after reset: every item absent (R178). -/
def Setup.empty : Setup where
  survey := none
  head := none
  calib := Vector.replicate 8 none
  sweep := none
  zones := none
  envelope := Vector.replicate 12 none
  exclusion := Vector.replicate 4 none
  watch := none
  aux := none
  line := none
  faults := none

/-- The station right after reset (R15, R29, R48, R68, R76, R109, R151, R167, R178, R188). The straps and the phase pair are
inputs sampled as reset ends: here 0 and 00 (DESIGN CHOICE, unsafe, log 4). -/
def State.reset : State where
  odo := { phase := ⟨false, false⟩, pos := 0, base := none, nextThreshold := none, nextSection := 0, limitMark := false }
  conv := { scan := .idle, work := none, cant := 0, supplyWeak := false, overTemp := false, intervalRunning := false }
  seq := { table := none, groups := [], sweep := .idle, fixed := none, rows := 0, cols := 0 }
  echo := { acceptance := none, geometry := none }
  env := List.replicate 1024 none
  store := { records := [], gapCount := 0, gapReasons := .empty, drainPending := false, drainTarget := none,
             drainRequester := none }
  watch := { locals := [], peers := [], idCounter := 0, owed := [] }
  line := { rx := .idleWait, queue := [], groupA := [], groupB := [], groupC := [], tx := none, breakSend := false,
            judging := false }
  ctrl := { station := .config, ownNumber := 0, setup := .empty, marks := 0, failingItem := none }
  recorder := { kinds := Vector.replicate 16 ⟨false, 0⟩, firstError := none, attention := false }
  resetAsserted := false
  pending := []

end Sys2Proof.Machine
end

