-- ==== Sys2Proof/Machine/Operands.lean ====
section
/-! DEFINITION. The layouts of chapter 12: how the payload of a received telegram is read (with the clamping of R172), how a
telegram the station sends is laid out, and the check sequence (R189). -/

namespace Sys2Proof.Machine

/-! ### Reading bytes (R190) -/

/-- The byte at an offset of a payload, as a number. -/
def byteAt (p : List Byte) (i : Nat) : Nat := (p.getD i 0).toNat

/-- A two-byte unsigned field, most significant byte first. -/
def word16At (p : List Byte) (i : Nat) : Nat := byteAt p i * 256 + byteAt p (i + 1)

/-- A three-byte unsigned field, most significant byte first. -/
def word24At (p : List Byte) (i : Nat) : Nat := word16At p i * 256 + byteAt p (i + 2)

/-- The two's complement value of an n-bit number. -/
def signedOf (bits v : Nat) : Int := if v < 2 ^ (bits - 1) then v else (v : Int) - 2 ^ bits

/-- A two-byte signed field. -/
def int16At (p : List Byte) (i : Nat) : Int := signedOf 16 (word16At p i)

/-- A three-byte signed field. -/
def int24At (p : List Byte) (i : Nat) : Int := signedOf 24 (word24At p i)

/-- One bit of the byte at an offset; bit 7 is the most significant. -/
def flagAt (p : List Byte) (i bit : Nat) : Bool := (byteAt p i).testBit bit

/-! ### SETUP records, each field clamped into its range (R172, R191). Offsets count from the item number, offset 0. -/

/-- Item 1 SURVEY; a count mode of 2 or above is ×4. -/
def readSurvey (p : List Byte) : Survey where
  spacing := clampNat 1 65535 (word16At p 1)
  countMode := match byteAt p 3 with
    | 0 => .x1
    | 1 => .x2
    | _ => .x4
  tofMin := word16At p 4
  ks := clampNat 360000 400000 (word24At p 6)
  dMin := clampNat 100 20000 (word16At p 9)
  dMax := clampNat 10000 300000 (word24At p 11)

/-- Item 2 HEAD. -/
def readHead (p : List Byte) : Head where
  mount := word16At p 1
  hx := clampInt (-100000) 100000 (int24At p 3)
  hy := clampInt (-100000) 100000 (int24At p 6)
  gx := clampInt (-100000) 100000 (int24At p 9)
  gy := clampInt (-100000) 100000 (int24At p 12)

/-- The element record that starts at an offset of an item CALIB. -/
def readElementCalib (p : List Byte) (off : Nat) : ElementCalib where
  angle := word16At p off
  offset := clampInt (-5000) 5000 (int16At p (off + 2))
  enabled := flagAt p (off + 4) 0
  cls := if flagAt p (off + 4) 1 then .long else .short

/-- An item 3..10 CALIB: eight elements of five bytes. -/
def readCalib (p : List Byte) : Vector ElementCalib 8 := Vector.ofFn fun j => readElementCalib p (1 + 5 * j.val)

/-- Item 11 SWEEP. -/
def readSweep (p : List Byte) : SweepItem where
  dwellShort := clampNat 1 255 (byteAt p 1)
  dwellLong := clampNat 1 255 (byteAt p 2)
  gap := clampNat 1 255 (byteAt p 3)
  pairing := flagAt p 4 0
  forwardSuspect := flagAt p 4 1
  ampLo := byteAt p 5
  weakLimit := clampNat 1 15 (byteAt p 6)

/-- A neighbour field: any value above 15 is none (R172, R190). -/
def readNeighbour (p : List Byte) (i : Nat) : Option Nat := if byteAt p i ≤ 15 then some (byteAt p i) else none

/-- A range of bins, each end clamped into 0..1023. -/
def readBinRange (p : List Byte) (i : Nat) : BinRange :=
  ⟨clampNat 0 1023 (word16At p i), clampNat 0 1023 (word16At p (i + 2))⟩

/-- Item 12 ZONES; STITCH_WINDOW is clamped by the basis stored with it. -/
def readZones (p : List Byte) : Zones where
  left := readNeighbour p 1
  leftZone := readBinRange p 2
  right := readNeighbour p 6
  rightZone := readBinRange p 7
  coverage := readBinRange p 11
  basis := if byteAt p 15 = 0 then .sections else .time
  window := clampNat 1 (if byteAt p 15 = 0 then 32 else 1000) (word16At p 16)

/-- An item 13..24 ENVELOPE; an end bin below its start bin is raised to it (R74). -/
def readSegment (p : List Byte) : Segment where
  b0 := clampNat 0 1023 (word16At p 1)
  b1 := max (clampNat 0 1023 (word16At p 1)) (clampNat 0 1023 (word16At p 3))
  rs := clampNat 10000 300000 (word24At p 5)
  re := clampNat 10000 300000 (word24At p 8)

/-- An item 25..28 EXCLUSION. -/
def readExclusion (p : List Byte) : Exclusion := ⟨word16At p 1, word16At p 3⟩

/-- Item 29 WATCH. -/
def readWatch (p : List Byte) : WatchItem where
  confirm := clampNat 1 8 (byteAt p 1)
  clearCount := clampNat 1 8 (byteAt p 2)
  hyst := clampNat 0 2000 (word16At p 3)
  warn := clampNat 0 5000 (word16At p 5)
  peerAge := clampNat 1 255 (byteAt p 7)
  guard := clampNat 0 16 (byteAt p 8)

/-- Item 30 AUX. -/
def readAux (p : List Byte) : Aux where
  cantZero := clampNat 0 4095 (word16At p 1)
  cantGain := clampInt (-4096) 4096 (int16At p 3)
  cantLim := clampNat 0 2731 (word16At p 5)
  supLo := clampNat 0 4095 (word16At p 7)
  supHyst := clampNat 0 4095 (word16At p 9)
  tempHi := clampNat 0 4095 (word16At p 11)
  tempHyst := clampNat 0 4095 (word16At p 13)
  cantSettle := clampNat 1 63 (byteAt p 15)
  supSettle := clampNat 1 63 (byteAt p 16)
  tempSettle := clampNat 1 63 (byteAt p 17)
  scanPeriod := clampNat 1 255 (byteAt p 18)

/-- Item 31 LINE; an order code above 7 is 7. -/
def readLine (p : List Byte) : LineItem := ⟨clampNat 8 255 (byteAt p 1), clampNat 0 7 (byteAt p 2)⟩

/-- One kind's byte of item 32: bits 1..0 severity, of which 3 is FATAL; bit 7 masked. -/
def readPolicy (p : List Byte) (i : Nat) : KindPolicy where
  severity := match byteAt p i % 4 with
    | 0 => .note
    | 1 => .degraded
    | _ => .fatal
  masked := flagAt p i 7

/-- Item 32 FAULTS. -/
def readFaults (p : List Byte) : Vector KindPolicy 16 := Vector.ofFn fun k => readPolicy p (1 + k.val)

/-- The record length of each item number 1..32, and none for a number that names no item (R191). -/
def itemLength (item : Nat) : Option Nat :=
  if item = 0 ∨ 32 < item then none
  else if item = 1 then some 13
  else if item = 2 then some 14
  else if item ≤ 10 then some 40
  else if item = 11 then some 6
  else if item = 12 then some 17
  else if item ≤ 24 then some 10
  else if item ≤ 28 then some 4
  else if item = 29 then some 8
  else if item = 30 then some 18
  else if item = 31 then some 2
  else some 16

/-- The setup with the item of a SETUP payload stored, replacing any earlier copy whole (R171). A number that names no item
stores nothing. -/
def Setup.storeItem (u : Setup) (p : List Byte) : Setup :=
  let item := byteAt p 0
  if item = 1 then { u with survey := some (readSurvey p) }
  else if item = 2 then { u with head := some (readHead p) }
  else if h : 3 ≤ item ∧ item < 11 then { u with calib := u.calib.set (item - 3) (some (readCalib p)) (by omega) }
  else if item = 11 then { u with sweep := some (readSweep p) }
  else if item = 12 then { u with zones := some (readZones p) }
  else if h : 13 ≤ item ∧ item < 25 then { u with envelope := u.envelope.set (item - 13) (some (readSegment p)) (by omega) }
  else if h : 25 ≤ item ∧ item < 29 then { u with exclusion := u.exclusion.set (item - 25) (some (readExclusion p)) (by omega) }
  else if item = 29 then { u with watch := some (readWatch p) }
  else if item = 30 then { u with aux := some (readAux p) }
  else if item = 31 then { u with line := some (readLine p) }
  else if item = 32 then { u with faults := some (readFaults p) }
  else u

/-! ### Kinds and admitted lengths -/

/-- The kind a code names (R189); codes 11..15 name none. -/
def Kind.ofCode (c : BitVec 4) : Option Kind :=
  match c.toNat with
  | 0 => some .start
  | 1 => some .restart
  | 2 => some .alert
  | 3 => some .statusReq
  | 4 => some .clear
  | 5 => some .drain
  | 6 => some .status
  | 7 => some .drained
  | 8 => some .edge
  | 9 => some .report
  | 10 => some .setup
  | _ => none

/-- The code of a kind (R189). -/
def Kind.code : Kind → Nat
  | .start => 0
  | .restart => 1
  | .alert => 2
  | .statusReq => 3
  | .clear => 4
  | .drain => 5
  | .status => 6
  | .drained => 7
  | .edge => 8
  | .report => 9
  | .setup => 10

/-- The class a kind is sent in (R155). -/
def Kind.cls : Kind → Nat
  | .start | .restart => 0
  | .alert => 1
  | .statusReq | .clear | .drain => 2
  | .status | .drained => 3
  | .edge => 4
  | .report => 5
  | .setup => 6

/-- The payload lengths a kind admits (R190). REPORT, STATUS and DRAINED are never taken, so the table gives them none. -/
def lengthAdmitted (k : Kind) (p : List Byte) : Bool :=
  match k with
  | .start | .restart | .statusReq | .drain => p.length == 0
  | .clear => p.length == 2
  | .alert => p.length == 17
  | .edge => 5 ≤ p.length && p.length == 5 + 4 * byteAt p 4
  | .setup =>
    match itemLength (byteAt p 0) with
    | some n => p.length == 1 + n
    | none => 1 ≤ p.length
  | .status | .drained | .report => false

/-! ### Received payloads (R191) -/

/-- The side field of an EDGE payload; code 3 names no side (R190). -/
def edgeSideAt (p : List Byte) : Option EdgeSide :=
  match byteAt p 3 % 4 with
  | 0 => some .left
  | 1 => some .right
  | 2 => some .both
  | _ => none

/-- Entry i of an EDGE payload. -/
def edgeEntryAt (p : List Byte) (i : Nat) : EdgeEntry :=
  ⟨word16At p (5 + 4 * i), byteAt p (7 + 4 * i), byteAt p (8 + 4 * i)⟩

/-- The gap flag and the entries of an EDGE payload. -/
def readPeerEdge (p : List Byte) : PeerEdge :=
  ⟨flagAt p 3 7, (List.range (byteAt p 4)).map (edgeEntryAt p)⟩

/-- An ALERT payload. -/
def readAlert (p : List Byte) : Alert where
  isEnd := flagAt p 0 0
  corroborated := flagAt p 0 1
  id := byteAt p 1
  spanFirst := word16At p 2
  spanLast := word16At p 4
  firstSection := word24At p 6
  currentSection := word24At p 9
  minClearance := int16At p 12
  lastSection := word24At p 14

/-! ### Laying out the telegrams the station sends (R190, R191) -/

/-- A one-byte field. -/
def put8 (v : Nat) : List Byte := [BitVec.ofNat 8 v]

/-- A two-byte field, most significant byte first. -/
def put16 (v : Nat) : List Byte := [BitVec.ofNat 8 (v / 256), BitVec.ofNat 8 v]

/-- A three-byte field, most significant byte first. -/
def put24 (v : Nat) : List Byte := [BitVec.ofNat 8 (v / 65536), BitVec.ofNat 8 (v / 256), BitVec.ofNat 8 v]

/-- A two-byte signed field, two's complement. -/
def putInt16 (v : Int) : List Byte := put16 (v % 65536).toNat

/-- The value of one flag bit. -/
def bitValue (bit : Nat) (b : Bool) : Nat := if b then 2 ^ bit else 0

/-- A section number with no value is sent as 0 (R190). -/
def putSection (n : Option Nat) : List Byte := put24 (n.getD 0)

/-- A clearance; absent is −32768 (R190). -/
def putClearance (c : Option Int) : List Byte := putInt16 (c.getD (-32768))

/-- The number of an error kind, from RX_CHECK as 0 to ODOMETER as 15 (R190). -/
def ErrKind.index : ErrKind → Fin 16
  | .rxCheck => 0
  | .rxQuiet => 1
  | .rxOverrun => 2
  | .dupStation => 3
  | .txDropped => 4
  | .setupInvalid => 5
  | .setupRefused => 6
  | .sweepBusy => 7
  | .storeFull => 8
  | .edgeUnmatched => 9
  | .watchFull => 10
  | .foreignEcho => 11
  | .cantClamp => 12
  | .supplyWeak => 13
  | .overTemp => 14
  | .odometer => 15

/-- The code of a station state in STATUS (R191). -/
def Station.code : Station → Nat
  | .config => 0
  | .run => 1
  | .halted => 2
  | .fault => 3

/-- A set of kinds: the bit of value 2^k stands for kind k (R190). -/
def seenSet (kinds : Vector KindRecord 16) : Nat :=
  ((List.finRange 16).map fun k => bitValue k.val kinds[k].seen).sum

/-- ALERT payload. -/
def layAlert (a : Alert) : List Byte :=
  put8 (bitValue 0 a.isEnd + bitValue 1 a.corroborated) ++ put8 a.id ++ put16 a.spanFirst ++ put16 a.spanLast
    ++ put24 a.firstSection ++ put24 a.currentSection ++ putInt16 a.minClearance ++ put24 a.lastSection

/-- DRAINED payload. -/
def layDrained (target : Option Nat) : List Byte := put8 (bitValue 0 target.isSome) ++ putSection target

/-- The code of a side in an EDGE (R191). -/
def EdgeSide.code : EdgeSide → Nat
  | .left => 0
  | .right => 1
  | .both => 2

/-- One EDGE entry. -/
def layEdgeEntry (e : EdgeEntry) : List Byte := put16 e.bin ++ put8 e.qBest ++ put8 e.nLast

/-- EDGE payload. -/
def layEdge (e : EdgeBody) : List Byte :=
  put24 e.number ++ put8 (e.side.code + bitValue 7 e.gap) ++ put8 e.entries.length ++ e.entries.flatMap layEdgeEntry

/-- The part 0 summary. A record that reports has had its sweep started, so its four sweep fields are present (R88); a record
without them would be laid out with zeros there (DESIGN CHOICE, safe, log 19). -/
def laySummary (m : Summary) : List Byte :=
  let w := m.sweep.getD ⟨0, false, 0, 0⟩
  putInt16 w.cant
    ++ put8 (bitValue 0 w.reduced + bitValue 1 m.drainMark + bitValue 4 m.gapReasons.halt + bitValue 5 m.gapReasons.hot
        + bitValue 6 m.gapReasons.busy + bitValue 7 m.gapReasons.storeFull)
    ++ put8 w.fired ++ put8 w.excluded ++ put8 m.valid ++ put8 m.near ++ put8 m.far ++ put16 m.foreign
    ++ put8 m.suspectDropped ++ put8 m.cededCount ++ put24 m.gapBefore

/-- One report entry; an absent mean radius is 16,777,215 (R190). -/
def layReportEntry (e : ReportEntry) : List Byte :=
  put16 (e.bin * 64 + bitValue 5 e.suspect + bitValue 4 e.warn + bitValue 3 e.intrusion + bitValue 2 e.unpaired
      + bitValue 1 e.contested)
    ++ put8 e.nLast ++ put8 e.qBest ++ put24 (e.meanRadius.getD 16777215) ++ putClearance e.cMin

/-- REPORT payload. -/
def layReport (p : ReportPart) : List Byte :=
  put24 p.number ++ put8 (p.index * 16 + p.count) ++ put8 p.entries.length
    ++ (match p.summary with
        | some m => laySummary m
        | none => [])
    ++ p.entries.flatMap layReportEntry

/-- STATUS payload. -/
def layStatus (b : StatusBody) : List Byte :=
  put8 (b.station.code * 64 + b.strap.toNat)
    ++ put8 (match b.firstError with
        | some k => k.index.val
        | none => 255)
    ++ put16 (seenSet b.kinds)
    ++ (b.kinds.toList.flatMap fun r => put16 r.count)
    ++ put8 b.occupancy ++ put8 b.watchInUse
    ++ put8 (bitValue 0 b.drainPending + bitValue 1 b.newest.isSome + bitValue 2 b.oldest.isSome)
    ++ putSection b.newest ++ putSection b.oldest
    ++ put16 (b.marks.toNat / 65536) ++ put16 b.marks.toNat
    ++ put8 (b.failingItem.getD 0)

/-- The kind of a telegram the station sends. -/
def TelegramBody.kind : TelegramBody → Kind
  | .alert _ => .alert
  | .status _ => .status
  | .drained _ => .drained
  | .edge _ => .edge
  | .report _ => .report

/-- The payload of a telegram the station sends (R191). -/
def TelegramBody.payload : TelegramBody → List Byte
  | .alert a => layAlert a
  | .status b => layStatus b
  | .drained t => layDrained t
  | .edge e => layEdge e
  | .report p => layReport p

/-! ### The check sequence (R189) -/

/-- The bits of a field, most significant first. -/
def bitsOf {n : Nat} (v : BitVec n) : List Bool := (List.range n).map v.getMsbD

/-- One bit entering the check register (R189, steps 1 to 3). -/
def checkStep (reg : BitVec 16) (bit : Bool) : BitVec 16 :=
  if bit != reg.msb then (reg <<< 1) ^^^ 0x1021#16 else reg <<< 1

/-- The bits the check sequence covers: from the target to the last bit of the payload (R159, R189). -/
def checkedBits (h : Header) (payload : List Byte) : List Bool :=
  bitsOf h.target ++ bitsOf h.kind ++ bitsOf h.length ++ payload.flatMap bitsOf

/-- The check sequence of a telegram (R189). -/
def checkSequence (h : Header) (payload : List Byte) : BitVec 16 :=
  (checkedBits h payload).foldl checkStep 0xFFFF#16

/-- The frame of a telegram sent by a station: its class, number, target, kind, length, payload and check sequence (R155, R169). -/
def frameOf (own : BitVec 4) (t : Telegram) : Frame :=
  let payload := t.body.payload
  let h : Header := { cls := BitVec.ofNat 3 t.body.kind.cls, sender := own, target := BitVec.ofNat 5 t.target,
                      kind := BitVec.ofNat 4 t.body.kind.code, length := BitVec.ofNat 8 payload.length }
  { header := h, payload := payload, check := checkSequence h payload }

/-- The bits of a telegram in the order they go onto the line, the start bit first (R155, R189). -/
def Frame.bits (f : Frame) : List Bool :=
  false :: (bitsOf f.header.cls ++ bitsOf f.header.sender ++ bitsOf f.header.target ++ bitsOf f.header.kind
    ++ bitsOf f.header.length ++ f.payload.flatMap bitsOf ++ bitsOf f.check)

end Sys2Proof.Machine
end

