-- ==== Sys2Proof/Machine/Flags.lean ====
section
/-! DEFINITION. What is computed from the stored setup (settings in force, severities and masks, neighbours and zones), and
the flags: the attention output, and the marks of a bin record. -/

namespace Sys2Proof.Machine

/-! ### Settings in force -/

/-- The count mode in force (R5). -/
def Setup.countMode (u : Setup) : CountMode :=
  match u.survey with
  | some v => v.countMode
  | none => .x4

/-- The watch settings in force: item 29's, or the defaults (R134; WARN by R89). -/
def Setup.watchItem (u : Setup) : WatchItem :=
  u.watch.getD { confirm := 3, clearCount := 3, hyst := 100, warn := Config.warnDefault, peerAge := 40, guard := 4 }

/-- LINE_TIMEOUT in force (09, opening). -/
def Setup.lineTimeout (u : Setup) : Nat :=
  match u.line with
  | some v => v.timeout
  | none => Config.lineTimeoutDefault

/-- The group order in force, highest first; codes 6 and 7 use the order of code 0 (R161, R172). -/
def Setup.groupOrder (u : Setup) : List TxGroup :=
  match (match u.line with
    | some v => v.orderCode
    | none => 0) with
  | 1 => [.a, .c, .b]
  | 2 => [.b, .a, .c]
  | 3 => [.b, .c, .a]
  | 4 => [.c, .a, .b]
  | 5 => [.c, .b, .a]
  | _ => [.a, .b, .c]

/-- The default severity of a kind (R181). -/
def ErrKind.defaultSeverity : ErrKind → Severity
  | .rxCheck | .rxQuiet | .setupRefused | .edgeUnmatched | .foreignEcho | .cantClamp => .note
  | .dupStation => .fatal
  | .rxOverrun | .txDropped | .setupInvalid | .sweepBusy | .storeFull | .watchFull | .supplyWeak | .overTemp
  | .odometer => .degraded

/-- The severity and mask of a kind in force (R182). -/
def Setup.policy (u : Setup) (k : ErrKind) : KindPolicy :=
  match u.faults with
  | some v => v[k.index]
  | none => ⟨k.defaultSeverity, false⟩

/-! ### Neighbours and zones (R112) -/

/-- The two sides of a station. -/
inductive Side where
  | left | right
deriving DecidableEq, Repr

/-- The neighbour configured on a side. -/
def Setup.neighbour (u : Setup) : Side → Option Nat
  | .left => u.zones.bind (·.left)
  | .right => u.zones.bind (·.right)

/-- The zone of a side; it exists where a neighbour is configured. -/
def Setup.zone (u : Setup) : Side → Option BinRange
  | .left => u.zones.bind fun z => if z.left.isSome then some z.leftZone else none
  | .right => u.zones.bind fun z => if z.right.isSome then some z.rightZone else none

/-- A bin lies in a zone (R112). -/
def BinRange.holds (z : BinRange) (bin : Nat) : Bool := z.lo ≤ bin && bin ≤ z.hi

/-- A bin lies in the zone that exists on a side. -/
def Setup.inZone (u : Setup) (sd : Side) (bin : Nat) : Bool :=
  match u.zone sd with
  | some z => z.holds bin
  | none => false

/-- The side a station is the neighbour on. START ensures that it is on one side at most (R112). -/
def Setup.sideOf (u : Setup) (station : Nat) : Option Side :=
  if u.neighbour .left = some station then some .left
  else if u.neighbour .right = some station then some .right
  else none

/-- The stitch basis and window; without item 12 no record exists to have a window. -/
def Setup.stitch (u : Setup) : Option (StitchBasis × Nat) := u.zones.map fun z => (z.basis, z.window)

/-! ### Gap reasons -/

/-- Reasons of both sets (R11, R47). -/
def GapReasons.union (x y : GapReasons) : GapReasons :=
  ⟨x.halt || y.halt, x.hot || y.hot, x.busy || y.busy, x.storeFull || y.storeFull⟩

/-- Reason HALT alone. -/
def GapReasons.onlyHalt : GapReasons := ⟨true, false, false, false⟩
/-- Reason HOT alone. -/
def GapReasons.onlyHot : GapReasons := ⟨false, true, false, false⟩
/-- Reason BUSY alone. -/
def GapReasons.onlyBusy : GapReasons := ⟨false, false, true, false⟩
/-- Reason STORE_FULL alone. -/
def GapReasons.onlyStoreFull : GapReasons := ⟨false, false, false, true⟩

/-! ### Flags of the fault recorder and of bin records -/

/-- The attention output follows the first-error record and the state (R184). -/
def State.followAttention (s : State) : State :=
  { s with recorder := { s.recorder with
      attention := s.recorder.firstError.isSome || decide (s.ctrl.station = .fault) } }

/-- WARN and INTRUSION set from a new c_min (R85). -/
def BinRecord.setClearanceFlags (r : BinRecord) (warn : Nat) (c : Int) : BinRecord :=
  { r with cMin := some c, warn := decide (c < (warn : Int)), intrusion := decide (c < 0) }

/-- The UNPAIRED mark of a side that closes (R129). -/
def BinRecord.markUnpaired (r : BinRecord) : BinRecord :=
  if r.ceded || r.contested then r else { r with unpaired := true }

end Sys2Proof.Machine
end

