-- ==== Sys2Proof/Machine/Ops.lean ====
section
/-! DEFINITION. The operations the blocks share: updates of one block, the transmit groups and the offer, recording an error
kind with the entry to FAULT it can cause, the owed-telegram list, the abort of a section in flight, the completion of a drain, and the
handler's taking of a received telegram. -/

namespace Sys2Proof.Machine

/-! ### Updates of one block -/

/-- Change the odometry unit. -/
def State.onOdo (f : Odometry → Odometry) (s : State) : State := { s with odo := f s.odo }
/-- Change the auxiliary converter. -/
def State.onConv (f : Converter → Converter) (s : State) : State := { s with conv := f s.conv }
/-- Change the emitter sequencer. -/
def State.onSeq (f : Sequencer → Sequencer) (s : State) : State := { s with seq := f s.seq }
/-- Change the echo processor. -/
def State.onEcho (f : EchoProcessor → EchoProcessor) (s : State) : State := { s with echo := f s.echo }
/-- Change the section store. -/
def State.onStore (f : Store → Store) (s : State) : State := { s with store := f s.store }
/-- Change the watch unit. -/
def State.onWatch (f : Watch → Watch) (s : State) : State := { s with watch := f s.watch }
/-- Change the line interface. -/
def State.onLine (f : Line → Line) (s : State) : State := { s with line := f s.line }
/-- Change station control. -/
def State.onCtrl (f : Control → Control) (s : State) : State := { s with ctrl := f s.ctrl }
/-- Change the fault recorder. -/
def State.onRecorder (f : Recorder → Recorder) (s : State) : State := { s with recorder := f s.recorder }

/-- What a command does: nothing while the reset input is asserted, for the station then drives nothing and its release sets
every block anew (DESIGN CHOICE, safe, log 6); otherwise its effect. No command stops. -/
def live (f : State → State) (s : State) : Host.Outcome State Fault Refusal :=
  .next (if s.resetAsserted then s else f s)

/-- A later step of an event, taken only while the station is still in RUN: an error recorded earlier in the same event may have
moved it to FAULT (DESIGN CHOICE, unsafe, log 7). -/
def whileRun (f : State → State) (s : State) : State := if s.ctrl.station = .run then f s else s

/-! ### Transmit groups (R161) -/

/-- The telegrams of a group, head first. -/
def Line.group (l : Line) : TxGroup → List Telegram
  | .a => l.groupA
  | .b => l.groupB
  | .c => l.groupC

/-- The group replaced. -/
def Line.setGroup (l : Line) (g : TxGroup) (ts : List Telegram) : Line :=
  match g with
  | .a => { l with groupA := ts }
  | .b => { l with groupB := ts }
  | .c => { l with groupC := ts }

/-- The most telegrams a group holds. -/
def TxGroup.capacity : TxGroup → Nat
  | .a => Config.groupACapacity
  | .b => Config.groupBCapacity
  | .c => Config.groupCCapacity

/-- A group has a free slot. -/
def State.hasRoom (s : State) (g : TxGroup) : Bool := (s.line.group g).length < g.capacity

/-- The offer made while the line is idle: the head of the highest non-empty group begins transmission (R161). Nothing is offered
while the station already transmits, or drives a break, for the line is then not idle (DEDUCED, unsafe, log 11). -/
def offer (s : State) : State :=
  if s.line.tx.isSome || s.line.breakSend then s
  else
    match s.ctrl.setup.groupOrder.find? fun g => !(s.line.group g).isEmpty with
    | none => s
    | some g =>
      match s.line.group g with
      | [] => s
      | t :: _ => s.onLine fun l => { l with tx := some ⟨g, frameOf s.ctrl.ownNumber t, false⟩ }

/-- A telegram enters a group. Entering an empty group while the receiver is IDLE is an offer (R161). The producer has seen to
the room. -/
def enqueue (g : TxGroup) (t : Telegram) (s : State) : State :=
  let s' := s.onLine fun l => l.setGroup g (l.group g ++ [t])
  if (s.line.group g).isEmpty && decide (s.line.rx = .idle) then offer s' else s'

/-- The head of a group leaves it. -/
def popGroup (g : TxGroup) (s : State) : State := s.onLine fun l => l.setGroup g (l.group g).tail

/-! ### The section in flight (R46, R48) -/

/-- Steps 1 to 4 of R46: drivers released, acceptance closed, held echoes and geometry gone (R68), no adaptation, group list
emptied, sweep state IDLE. -/
def endSweep (s : State) : State :=
  (s.onSeq fun q => { q with groups := [], sweep := .idle, fixed := none, rows := 0, cols := 0 }).onEcho
    fun _ => { acceptance := none, geometry := none }

/-- The end of a section scan before its TEMP completion: what remains goes on as a periodic scan (R22). -/
def endSectionScan (s : State) : State :=
  s.onConv fun c => if c.scan = .sectionScan then { c with scan := .periodic } else c

/-- A discarded record's gap accounting handed back to the accumulator (R47, R108). -/
def Store.handBack (st : Store) (r : SectionRecord) : Store :=
  { st with
    gapCount := st.gapCount + r.summary.gapBefore + 1
    gapReasons := (st.gapReasons.union r.summary.gapReasons).union .onlyHalt }

/-- The SWEEPING record discarded, its gap accounting handed back (R46 step 5, R47). -/
def Store.discardSweeping (st : Store) : Store :=
  let gone := st.records.filter fun r => decide (r.state = .sweeping)
  gone.foldl Store.handBack { st with records := st.records.filter fun r => decide (r.state ≠ .sweeping) }

/-- The abort of the section in flight; with the sweep state IDLE nothing is touched (R46). -/
def abortSection (s : State) : State :=
  if s.seq.sweep = .idle then s else (endSectionScan (endSweep s)).onStore Store.discardSweeping

/-! ### Entry to FAULT (R177, R185) -/

/-- The store at entry to FAULT: every record discarded with its gap accounting handed back, any drain cancelled (R107, R108). -/
def Store.enterFault (st : Store) : Store :=
  let st' := st.records.foldl Store.handBack { st with records := [] }
  { st' with drainPending := false, drainTarget := none, drainRequester := none }

/-- The line interface at entry to FAULT: groups B and C emptied, a transmission from either cut with the receiver sent to
IDLE_WAIT; group A and its transmission go on (R167). -/
def Line.enterFault (l : Line) : Line :=
  let l' := { l with groupB := [], groupC := [] }
  match l.tx with
  | some t => if t.group = .a then l' else { l' with tx := none, rx := .idleWait }
  | none => l'

/-- The watch unit cleared: table, id counter and owed-telegram list (R151). -/
def Watch.cleared : Watch := { locals := [], peers := [], idCounter := 0, owed := [] }

/-- Entry to FAULT: every block acts under its own rule (R177). -/
def enterFault (s : State) : State :=
  let s := s.onCtrl fun c => { c with station := .fault }
  let s := abortSection s
  let s := s.onStore Store.enterFault
  let s := s.onLine Line.enterFault
  let s := s.onWatch fun _ => Watch.cleared
  let s := s.onOdo fun o => { o with base := none, nextThreshold := none }
  s.followAttention

/-! ### Recording an error kind (R181 to R185) -/

/-- The kind seen, and counted up to 65535 (R181). -/
def Recorder.count (r : Recorder) (k : ErrKind) : Recorder :=
  { r with kinds := r.kinds.set k.index.val ⟨true, min Config.countMax (r.kinds[k.index].count + 1)⟩ k.index.isLt }

/-- An empty first-error record takes the kind (R183). -/
def Recorder.fill (r : Recorder) (k : ErrKind) : Recorder :=
  { r with firstError := some (r.firstError.getD k) }

/-- One occurrence of an error kind: counted; when unmasked and not NOTE it fills an empty first-error record and asserts
attention; when unmasked and FATAL it also moves a station not yet in FAULT there (R181 to R185). -/
def record (k : ErrKind) (s : State) : State :=
  let s := s.onRecorder (·.count k)
  let p := s.ctrl.setup.policy k
  if p.masked then s
  else
    match p.severity with
    | .note => s
    | .degraded => (s.onRecorder (·.fill k)).followAttention
    | .fatal =>
      let s := (s.onRecorder (·.fill k)).followAttention
      if s.ctrl.station = .fault then s else enterFault s

/-! ### Group A and the owed-telegram list (R147 to R149) -/

/-- The telegram is an ALERT RAISE under an id. -/
def Telegram.isRaiseOf (t : Telegram) (id : Nat) : Bool :=
  match t.body with
  | .alert a => !a.isEnd && a.id == id
  | _ => false

/-- The telegram is a DRAINED. -/
def Telegram.isDrained (t : Telegram) : Bool :=
  match t.body with
  | .drained _ => true
  | _ => false

/-- The owed field of the live record whose RAISE a telegram is (R147). -/
def Watch.setOwed (w : Watch) (t : Telegram) (owed : Bool) : Watch :=
  { w with locals := w.locals.map fun r =>
      match r.id with
      | some id => if t.isRaiseOf id then { r with owed := owed } else r
      | none => r }

/-- A telegram becomes owed: it joins the end of the list, and a RAISE marks its record (R147). -/
def owe (t : Telegram) (s : State) : State :=
  s.onWatch fun w => { (w.setOwed t true) with owed := w.owed ++ [t] }

/-- An ALERT or DRAINED is queued in group A, or owed when the group is full; a ninth owed DRAINED is dropped (R147, R148). -/
def produceA (t : Telegram) (s : State) : State :=
  if s.hasRoom .a then enqueue .a t s
  else if t.isDrained && decide (Config.owedDrainedMax ≤ (s.watch.owed.filter Telegram.isDrained).length) then
    record .txDropped s
  else owe t s

/-- A slot of group A has come free: the oldest owed telegram takes it (R147). -/
def refillA (s : State) : State :=
  match s.watch.owed with
  | [] => s
  | t :: rest => enqueue .a t (s.onWatch fun w => { (w.setOwed t false) with owed := rest })

/-- A transmission ends without completing: the telegram stays at the head of its group (R162, R163, R165, R166), unless
RESTART has condemned it: then it leaves its group (R167). A slot of group A freed so is filled from the owed-telegram list like
any other (DEDUCED, unsafe, log 10). -/
def abandonTx (s : State) : State :=
  match s.line.tx with
  | none => s
  | some t =>
    let s := s.onLine fun l => { l with tx := none }
    if t.condemned then
      match t.group with
      | .a => refillA (popGroup .a s)
      | g => popGroup g s
    else s

/-! ### Drain completion (R106) -/

/-- A drain completes: its DRAINED is built for the requester and queued in group A or owed; drain pending becomes no. -/
def completeDrain (s : State) : State :=
  let s' :=
    match s.store.drainRequester with
    | some q => produceA ⟨q, .drained s.store.drainTarget⟩ s
    | none => s
  s'.onStore fun st => { st with drainPending := false, drainTarget := none, drainRequester := none }

/-- No record present carries the drain mark. -/
def Store.noneMarked (st : Store) : Bool := st.records.all fun r => !r.summary.drainMark

/-! ### Section records -/

/-- The record of a section number. -/
def Store.find (st : Store) (number : Nat) : Option SectionRecord :=
  st.records.find? fun r => r.number == number

/-- Change the record of a section number. -/
def Store.modify (st : Store) (number : Nat) (f : SectionRecord → SectionRecord) : Store :=
  { st with records := st.records.map fun r => if r.number = number then f r else r }

/-- The SWEEPING record. -/
def Store.sweeping (st : Store) : Option SectionRecord :=
  st.records.find? fun r => decide (r.state = .sweeping)

/-- Change the SWEEPING record. -/
def State.onSweeping (f : SectionRecord → SectionRecord) (s : State) : State :=
  s.onStore fun st => { st with records := st.records.map fun r => if r.state = .sweeping then f r else r }

/-- Change the summary of a record. -/
def SectionRecord.onSummary (f : Summary → Summary) (r : SectionRecord) : SectionRecord := { r with summary := f r.summary }

/-- The state of a side (R96). -/
def SectionRecord.side (r : SectionRecord) : Side → SideState
  | .left => r.leftSide
  | .right => r.rightSide

/-- A side set to a state. -/
def SectionRecord.setSide (r : SectionRecord) (sd : Side) (x : SideState) : SectionRecord :=
  match sd with
  | .left => { r with leftSide := x }
  | .right => { r with rightSide := x }

/-- A neighbour's edge is still awaited on some side. -/
def SectionRecord.awaits (r : SectionRecord) : Bool := decide (r.leftSide = .awaited) || decide (r.rightSide = .awaited)

/-! ### The handler (R160) -/

/-- The kinds each station state accepts (R158). -/
def Station.accepts (st : Station) (k : Kind) : Bool :=
  match st, k with
  | .config, .setup | .config, .start | .config, .restart | .config, .statusReq | .config, .clear => true
  | .run, .start | .run, .restart | .run, .statusReq | .run, .clear | .run, .drain | .run, .edge | .run, .alert
  | .run, .setup => true
  | .halted, .start | .halted, .restart | .halted, .statusReq | .halted, .clear | .halted, .drain | .halted, .edge
  | .halted, .alert | .halted, .setup => true
  | .fault, .restart | .fault, .statusReq | .fault, .clear => true
  | _, _ => false

/-- The handler takes the oldest received telegram, when it is one that this command takes: it leaves the queue; a kind not
accepted in the station state is discarded unrecorded; a length the kind does not admit is discarded as RX_CHECK; any other is
handed on (R160). With no such telegram at the front of the receive queue the command cannot arise (log 2, log 14). -/
def takeOldest (mine : Received → Bool) (act : Received → State → State) (s : State) : State :=
  match s.line.queue with
  | [] => s
  | t :: rest =>
    if mine t then
      let s := s.onLine fun l => { l with queue := rest }
      if !s.ctrl.station.accepts t.kind then s
      else if !lengthAdmitted t.kind t.payload then record .rxCheck s
      else act t s
    else s

/-- The telegram is of a kind. -/
def Received.isKind (k : Kind) (t : Received) : Bool := decide (t.kind = k)

end Sys2Proof.Machine
end

