-- ==== Sys2Proof/Machine/Binner.lean ====
section
/-! DEFINITION. The ring binner (chapter 5): the bin test, the envelope, clearance, and the bin list. Its effects come about
inside DWELL_EXPIRY and START. -/

namespace Sys2Proof.Machine

/-! ### The bin test (R71 to R73) -/

/-- The three tests of bin b for a point (R72). -/
def inBin (x y : Int) (b : Nat) : Bool :=
  decide (0 ≤ cosineTable b * y - sineTable b * x)
    && decide (cosineTable (b + 1) * y - sineTable (b + 1) * x < 0)
    && decide (0 < cosineTable b * x + sineTable b * y)

/-- The bin of a point; none for the origin alone (R73). -/
def binOf (x y : Int) : Option Nat := (List.range 1024).find? (inBin x y)

/-! ### The envelope (R75, R77) -/

/-- The radius a segment gives a bin it covers (R75). -/
def Segment.radius (g : Segment) (b : Nat) : Nat :=
  if g.b0 < g.b1 then
    ((g.rs : Int) + roundHalfAway (((g.re : Int) - g.rs) * ((b : Int) - g.b0)) (g.b1 - g.b0)).toNat
  else g.rs

/-- A segment covers a bin. -/
def Segment.covers (g : Segment) (b : Nat) : Bool := g.b0 ≤ b && b ≤ g.b1

/-- The envelope table expanded from the present segments; START ensures that at most one covers a bin (R75). -/
def expandEnvelope (segments : List (Option Segment)) : List (Option Nat) :=
  (List.range 1024).map fun b =>
    ((segments.filterMap id).find? fun g => g.covers b).map fun g => g.radius b

/-- The envelope radius of a bin. -/
def State.envelopeAt (s : State) (b : Nat) : Option Nat := s.env.getD b none

/-- The clearance of a radius against an envelope radius, saturated (R77). -/
def clearance (r : Nat) (env : Option Nat) : Option Int :=
  env.map fun e => clampInt (-32767) 32767 ((r : Int) - e)

/-! ### Bin records (R79 to R85) -/

/-- Roles of a point record (R64, R67). -/
inductive Role where
  | firstOnly | last
deriving DecidableEq, Repr

/-- A point record handed over by the echo processor (R67). -/
structure PointRecord where
  element : Nat
  x       : Int
  y       : Int
  r       : Nat
  q       : Nat
  role    : Role
  suspect : Bool
deriving DecidableEq, Repr

/-- A bin record at its creation; q_best follows from the creating point (R80, R83). -/
def BinRecord.fresh (bin q : Nat) : BinRecord where
  bin := bin
  nLast := 0
  rSum := 0
  cMin := none
  qBest := q
  suspect := false
  warn := false
  intrusion := false
  unpaired := false
  contested := false
  ceded := false

/-- A clearance lowers c_min, and sets the flags, when it is present and c_min is absent or above it (R81, R82, R85). -/
def BinRecord.takeClearance (b : BinRecord) (warn : Nat) : Option Int → BinRecord
  | none => b
  | some c =>
    match b.cMin with
    | none => b.setClearanceFlags warn c
    | some m => if c < m then b.setClearanceFlags warn c else b

/-- The best quality after a point (R83). -/
def BinRecord.bestAfter (b : BinRecord) (role : Role) (q : Nat) : Nat :=
  match role with
  | .last => if b.nLast = 0 then q else max b.qBest q
  | .firstOnly => if b.nLast = 0 then max b.qBest q else b.qBest

/-- A point contributes to its bin record (R81 to R85). -/
def BinRecord.contribute (b : BinRecord) (warn : Nat) (c : Option Int) (p : PointRecord) : BinRecord :=
  let b := { b with qBest := b.bestAfter p.role p.q, suspect := b.suspect || p.suspect }
  let b := match p.role with
    | .last => { b with nLast := b.nLast + 1, rSum := b.rSum + p.r }
    | .firstOnly => b
  b.takeClearance warn c

/-- A point placed in the bin list: into its bin's record, or into a new record at its place in ascending bin number (R79). -/
def placeInBins (bin warn : Nat) (c : Option Int) (p : PointRecord) : List BinRecord → List BinRecord
  | [] => [(BinRecord.fresh bin p.q).contribute warn c p]
  | b :: rest =>
    if b.bin = bin then b.contribute warn c p :: rest
    else if bin < b.bin then (BinRecord.fresh bin p.q).contribute warn c p :: b :: rest
    else b :: placeInBins bin warn c p rest

/-- A point record handed over: the valid count rises, and the point is placed in the SWEEPING record's bin list (R67, R79). -/
def placePoint (p : PointRecord) (s : State) : State :=
  let s := s.onSweeping (SectionRecord.onSummary fun m => { m with valid := m.valid + 1 })
  match binOf p.x p.y with
  | none => s
  | some bin =>
    let warn := s.ctrl.setup.watchItem.warn
    let c := clearance p.r (s.envelopeAt bin)
    s.onSweeping fun r => { r with bins := placeInBins bin warn c p r.bins }

end Sys2Proof.Machine
end

