-- ==== Sys2Proof/Machine/Echo.lean ====
section
/-! DEFINITION. The echo processor (chapter 4): acceptance, the close of a group, range, point, radius, quality. Meaning of
ECHO_RECORD. -/

namespace Sys2Proof.Machine

/-! ### Acceptance (R52 to R55) -/

/-- A foreign echo is counted in the SWEEPING record, and records FOREIGN_ECHO at the section's first (R54). -/
def foreignEcho (s : State) : State :=
  match s.store.sweeping with
  | none => s
  | some r =>
    let s := s.onSweeping (SectionRecord.onSummary fun m => { m with foreign := min Config.countMax (m.foreign + 1) })
    if r.summary.foreign = 0 then record .foreignEcho s else s

/-- Change the member of an element in the open group. -/
def State.onMember (element : Nat) (f : Member → Member) (s : State) : State :=
  s.onEcho fun x => { x with
    acceptance := x.acceptance.map fun ms => ms.map fun m => if m.element = element then f m else m }

/-- An echo arriving while acceptance is OPEN (R53). -/
def acceptEcho (members : List Member) (e : EchoRecord) (s : State) : State :=
  match members.find? fun m => m.element == e.element.val with
  | none => foreignEcho s
  | some m =>
    if !e.codeMatch || decide (2 ≤ m.held.length) then
      foreignEcho (s.onMember e.element.val fun m => { m with foreign := true })
    else s.onMember e.element.val fun m => { m with held := m.held ++ [e] }

/-- An echo record arrives (R52). -/
def echoArrives (e : EchoRecord) (s : State) : State :=
  match s.seq.sweep with
  | .idle => s
  | .waiting | .gap _ => foreignEcho s
  | .dwell _ =>
    match s.echo.acceptance with
    | none => s
    | some members => acceptEcho members e s

/-- ECHO_RECORD (R52). -/
def execEchoRecord (e : EchoRecord) (s : State) : Host.Outcome State Fault Refusal := live (echoArrives e) s

/-! ### Range and point (R57 to R63) -/

/-- The range of an echo: TOF scaled, rounded half up, less the element's offset (R57). -/
def rangeOf (ks : Nat) (offset : Int) (tof : Nat) : Int := (((tof * ks + 32768) / 65536 : Nat) : Int) - offset

/-- The head origin of a sweep (R61). -/
def headOrigin (h : Head) (cant : Int) : Int × Int :=
  (h.gx + roundHalfAway (h.hx * cosine cant - h.hy * sine cant) 32768,
   h.gy + roundHalfAway (h.hx * sine cant + h.hy * cosine cant) 32768)

/-- The point of a range along a beam angle (R62). -/
def pointOf (g : Geometry) (beam : Nat) (d : Int) : Int × Int :=
  (g.ox + roundHalfAway (d * cosine beam) 32768, g.oy + roundHalfAway (d * sine beam) 32768)

/-- The radius of a point (R63). -/
def radiusOf (x y : Int) : Nat := isqrt (x.natAbs * x.natAbs + y.natAbs * y.natAbs)

/-- What becomes of a held echo at the close of its group (R58, R63). -/
inductive Disposal where
  | near
  | far
  | valid (x y : Int) (r : Nat)
deriving DecidableEq, Repr

/-- The range and point tests of a held echo (R58, R62, R63). -/
def disposalOf (v : Survey) (g : Geometry) (offset : Int) (e : EchoRecord) : Disposal :=
  let d := rangeOf v.ks offset e.tof.toNat
  if e.tof.toNat < v.tofMin ∨ d < (v.dMin : Int) then .near
  else if (v.dMax : Int) < d then .far
  else
    let p := pointOf g (g.beams.getD e.element.val 0) d
    if p.1 = 0 ∧ p.2 = 0 then .near else .valid p.1 p.2 (radiusOf p.1 p.2)

/-- The quality of a valid echo (R66). -/
def qualityOf (e : EchoRecord) (suspect : Bool) : Nat :=
  let q := if e.saturated then 1 else e.amplitude.toNat
  if suspect then q / 2 else q

/-- A valid echo with its point and radius. -/
structure ValidEcho where
  echo : EchoRecord
  x    : Int
  y    : Int
  r    : Nat
deriving DecidableEq, Repr

/-- A held echo tested: counted NEAR or FAR in the SWEEPING record, or added to the valid echoes (R56 step 1, R58). -/
def testHeld (v : Survey) (g : Geometry) (offset : Int) (acc : List ValidEcho × State) (e : EchoRecord) : List ValidEcho × State :=
  match disposalOf v g offset e with
  | .near => (acc.1, acc.2.onSweeping (SectionRecord.onSummary fun m => { m with near := m.near + 1 }))
  | .far => (acc.1, acc.2.onSweeping (SectionRecord.onSummary fun m => { m with far := m.far + 1 }))
  | .valid x y r => (acc.1 ++ [⟨e, x, y, r⟩], acc.2)

/-- The point records of a member's valid echoes: with two, the earlier is first only; the last, or only, one is last (R64). -/
def assignRoles (element : Nat) (suspect : Bool) : List ValidEcho → List PointRecord
  | [] => []
  | [w] => [⟨element, w.x, w.y, w.r, qualityOf w.echo suspect, .last, suspect⟩]
  | w :: rest => ⟨element, w.x, w.y, w.r, qualityOf w.echo suspect, .firstOnly, suspect⟩ :: assignRoles element suspect rest

/-- What is handed back for a member: amplitude and saturated flag of its last valid echo, or none (R67). -/
structure HandBack where
  element : Nat
  last    : Option (Nat × Bool)
deriving DecidableEq, Repr

/-- A member disposed of: echoes tested, roles given, suspects forwarded or dropped, points handed to the ring binner (R56,
R64 to R67). -/
def disposeMember (v : Survey) (forward : Bool) (g : Geometry) (offset : Int) (m : Member) (s : State) : HandBack × State :=
  let tested := m.held.foldl (testHeld v g offset) ([], s)
  let back : HandBack := ⟨m.element, tested.1.getLast?.map fun w => (w.echo.amplitude.toNat, w.echo.saturated)⟩
  if m.foreign && !forward then
    (back, tested.2.onSweeping (SectionRecord.onSummary fun k => { k with suspectDropped := k.suspectDropped + tested.1.length }))
  else (back, (assignRoles m.element m.foreign tested.1).foldl (fun s p => placePoint p s) tested.2)

/-- The close of a group: acceptance is CLOSED, and its members are disposed of in ascending element number (R56). The hand-backs
come in the same order. The items and the table read here are present whenever a group is open (R174, log 16). -/
def closeGroup (s : State) : List HandBack × State :=
  match s.echo.acceptance, s.echo.geometry, s.ctrl.setup.survey, s.ctrl.setup.sweep, s.seq.table with
  | some members, some g, some v, some w, some table =>
    let done := members.foldl
      (fun (acc : List HandBack × State) m =>
        let offset := if h : m.element < 64 then table[m.element].offset else 0
        let d := disposeMember v w.forwardSuspect g offset m acc.2
        (acc.1 ++ [d.1], d.2)) ([], s)
    (done.1, done.2.onEcho fun x => { x with acceptance := none })
  | _, _, _, _, _ => ([], s.onEcho fun x => { x with acceptance := none })

end Sys2Proof.Machine
end

