-- ==== Sys2Proof/Machine/Store.lean ====
section
/-! DEFINITION. The section store (chapter 6): stitch windows, reports, removal, drain, and the entry to HALTED, which settles
the store (R100, R176). Meanings of DRAIN and WINDOW_TIMER_EXPIRY. -/

namespace Sys2Proof.Machine

/-! ### Reports (R101 to R104) -/

/-- The mean radius of a bin record: r_sum / n_last rounded half up, absent without a LAST point (R86). -/
def BinRecord.meanRadius (r : BinRecord) : Option Nat := if r.nLast = 0 then none else some (roundHalfUp r.rSum r.nLast)

/-- The report entry of a bin record (R102). -/
def BinRecord.entry (r : BinRecord) : ReportEntry where
  bin := r.bin
  suspect := r.suspect
  warn := r.warn
  intrusion := r.intrusion
  unpaired := r.unpaired
  contested := r.contested
  nLast := r.nLast
  qBest := r.qBest
  meanRadius := r.meanRadius
  cMin := r.cMin

/-- The entries of a record's report: its bin records that are not CEDED (R102). -/
def SectionRecord.entries (r : SectionRecord) : List ReportEntry :=
  (r.bins.filter fun b => !b.ceded).map BinRecord.entry

/-- The number of parts: max(1, ceil(entries / 26)) (R102). -/
def SectionRecord.partCount (r : SectionRecord) : Nat :=
  max 1 ((r.entries.length + (Config.partEntries - 1)) / Config.partEntries)

/-- Part k of a record's report, built from the record as it stands; part 0 carries the summary (R102, R103). -/
def SectionRecord.part (r : SectionRecord) (k : Nat) : ReportPart where
  number := r.number
  index := k
  count := r.partCount
  entries := (r.entries.drop (Config.partEntries * k)).take Config.partEntries
  summary := if k = 0 then some r.summary else none

/-- The SENDING record's next part enters group C, if parts remain and the group has a free slot (R101, R104). -/
def enterPart (s : State) : State :=
  match s.store.records with
  | r :: rest =>
    if decide (r.state = .sending) && decide (r.partsQueued < r.partCount) && s.hasRoom .c then
      enqueue .c ⟨Config.everyStation, .report (r.part r.partsQueued)⟩
        (s.onStore fun st => { st with records := { r with partsQueued := r.partsQueued + 1 } :: rest })
    else s
  | [] => s

/-- So many parts enter, one after another. -/
def enterParts : Nat → State → State
  | 0, s => s
  | n + 1, s => enterParts n (enterPart s)

/-- The oldest record, when READY, becomes SENDING and its parts enter group C (R101). -/
def startReport (s : State) : State :=
  match s.store.records with
  | r :: rest =>
    if r.state = .ready then
      enterParts r.partCount
        (s.onStore fun st => { st with records := { r with state := .sending, partsQueued := 0 } :: rest })
    else s
  | [] => s

/-- The oldest record is removed: the drain completes if it was the last marked one, and the next record reports if it is READY
(R104). -/
def removeOldest (s : State) : State :=
  match s.store.records with
  | r :: rest =>
    let s := s.onStore fun st => { st with records := rest }
    let s := if r.summary.drainMark && s.store.noneMarked then completeDrain s else s
    startReport s
  | [] => s

/-- A report part of the SENDING record has completed: its next part enters, and after the last part the record is removed
(R104). -/
def reportPartDone (p : ReportPart) (s : State) : State :=
  match s.store.records with
  | r :: _ =>
    if r.state = .sending ∧ r.number = p.number then
      let s := enterPart s
      if p.index + 1 = p.count then removeOldest s else s
    else s
  | [] => s

/-! ### Stitch windows (R97 to R99) -/

/-- A side still AWAITED becomes CLOSED, and the own bins of its zone UNPAIRED (R99, R129). -/
def SectionRecord.closeSide (u : Setup) (sd : Side) (r : SectionRecord) : SectionRecord :=
  if r.side sd = .awaited then
    ({ r with bins := r.bins.map fun (b : BinRecord) => if u.inZone sd b.bin then b.markUnpaired else b }).setSide sd .closed
  else r

/-- The window of a HELD record closes, or the station halts: its AWAITED sides become CLOSED and it becomes READY (R99, R100). -/
def SectionRecord.close (u : Setup) (r : SectionRecord) : SectionRecord :=
  { (r.closeSide u .left).closeSide u .right with state := .ready, windowTimer := false }

/-- No side is AWAITED any more: the record becomes READY and its window stops (R96). -/
def SectionRecord.readyIfSettled (r : SectionRecord) : SectionRecord :=
  if r.awaits then r else { r with state := .ready, windowTimer := false }

/-- One section trigger counted towards a record's window under basis SECTIONS; a HELD record whose count reaches the window
closes (R97, R99). -/
def SectionRecord.countTrigger (u : Setup) (window : Nat) (r : SectionRecord) : SectionRecord :=
  match r.state with
  | .sweeping => { r with windowCount := if r.windowCount < window then r.windowCount + 1 else r.windowCount }
  | .held =>
    let r := { r with windowCount := if r.windowCount < window then r.windowCount + 1 else r.windowCount }
    if window ≤ r.windowCount then r.close u else r
  | .ready | .sending => r

/-- A section trigger, or a crossing ignored at the limit, counts towards every window under basis SECTIONS (R97). -/
def countWindows (s : State) : State :=
  match s.ctrl.setup.stitch with
  | some (.sections, window) =>
    startReport (s.onStore fun st => { st with records := st.records.map (SectionRecord.countTrigger s.ctrl.setup window) })
  | some (.time, _) | none => s

/-- Step 4 and 5 of R95 for one record: the window starts; the record becomes READY at once with no side AWAITED, or closes if
its window has already run out. -/
def SectionRecord.startWindow (u : Setup) (r : SectionRecord) : SectionRecord :=
  if !r.awaits then { r with state := .ready, windowTimer := false }
  else
    match u.stitch with
    | some (.sections, window) => if window ≤ r.windowCount then r.close u else r
    | some (.time, _) => { r with windowTimer := true }
    | none => r

/-! ### Entry to HALTED (R100, R150, R176) -/

/-- Every HELD record becomes READY with its AWAITED sides CLOSED (R100). -/
def closeHeld (s : State) : State :=
  startReport (s.onStore fun st =>
    { st with records := st.records.map fun r => if r.state = .held then r.close s.ctrl.setup else r })

/-- The abort at entry to HALTED: the discard of the last marked record completes the drain (R46, R106). -/
def abortForHalt (s : State) : State :=
  let marked := s.store.records.any fun r => decide (r.state = .sweeping) && r.summary.drainMark
  let s' := abortSection s
  if decide (s.seq.sweep ≠ .idle) && marked && s'.store.noneMarked then completeDrain s' else s'

/-- Entry to HALTED from RUN: the section in flight is aborted, HELD records are settled, PENDING watch records go (R176). -/
def enterHalted (s : State) : State :=
  let s := s.onCtrl fun c => { c with station := .halted }
  let s := abortForHalt s
  let s := closeHeld s
  s.onWatch fun w => { w with locals := w.locals.filter fun r => decide (r.state ≠ .pending) }

/-! ### Commands -/

/-- A DRAIN is handled (R105). -/
def handleDrain (t : Received) (s : State) : State :=
  let s := s.onStore fun st =>
    { st with
      records := st.records.map (SectionRecord.onSummary fun m => { m with drainMark := true })
      drainRequester := some t.sender }
  match s.store.records.getLast? with
  | some r => s.onStore fun st => { st with drainTarget := some r.number, drainPending := true }
  | none => if s.store.drainPending then s else completeDrain (s.onStore fun st => { st with drainTarget := none })

/-- DRAIN (R105). -/
def execDrain (s : State) : Host.Outcome State Fault Refusal := live (takeOldest (Received.isKind .drain) handleDrain) s

/-- The window timer of a record expires: a HELD record whose timer runs closes (R98, R99). -/
def windowTimerExpired (number : Nat) (s : State) : State :=
  match s.store.find number with
  | some r =>
    if r.state = .held ∧ r.windowTimer = true then
      startReport (s.onStore fun st => st.modify number (SectionRecord.close s.ctrl.setup))
    else s
  | none => s

/-- WINDOW_TIMER_EXPIRY (R98). -/
def execWindowTimerExpiry (number : Nat) (s : State) : Host.Outcome State Fault Refusal := live (windowTimerExpired number) s

end Sys2Proof.Machine
end

