-- ==== Sys2Proof/Machine/Stitch.lean ====
section
/-! DEFINITION. The stitch unit (chapter 7): the edges sent, the edges received, and the ownership rule. Meaning of EDGE. -/

namespace Sys2Proof.Machine

/-! ### Edges sent (R12, R114 to R116) -/

/-- The side field of the edge sent to the neighbour on a side (R114). -/
def Side.edgeSide : Side → EdgeSide
  | .left => .left
  | .right => .right

/-- An EDGE enters group B, or is dropped with TX_DROPPED when the group is full (R12, R114). -/
def sendEdge (neighbour : Nat) (e : EdgeBody) (s : State) : State :=
  if s.hasRoom .b then enqueue .b ⟨neighbour, .edge e⟩ s else record .txDropped s

/-- One EDGE for the neighbour on a side, if one is configured. -/
def edgeToSide (sd : Side) (e : EdgeBody) (s : State) : State :=
  match s.ctrl.setup.neighbour sd with
  | some nb => sendEdge nb e s
  | none => s

/-- The GAP EDGEs of a section skipped in RUN: left, then right (R12, R116). -/
def sendGapEdges (number : Nat) (s : State) : State :=
  let e : EdgeBody := { number := number, side := .both, gap := true, entries := [] }
  whileRun (edgeToSide .right e) (whileRun (edgeToSide .left e) s)

/-- The entries of a record's edge for a side: its bin records in the zone, in ascending bin number (R115). -/
def SectionRecord.edgeEntries (u : Setup) (sd : Side) (r : SectionRecord) : List EdgeEntry :=
  (r.bins.filter fun (b : BinRecord) => u.inZone sd b.bin).map fun (b : BinRecord) => ⟨b.bin, b.qBest, b.nLast⟩

/-- The edge of a record for a side (R114). -/
def SectionRecord.edgeBody (u : Setup) (sd : Side) (r : SectionRecord) : EdgeBody :=
  { number := r.number, side := sd.edgeSide, gap := false, entries := r.edgeEntries u sd }

/-- The edges of a swept record: left, then right (R114). -/
def sendEdges (r : SectionRecord) (s : State) : State :=
  let u := s.ctrl.setup
  whileRun (edgeToSide .right (r.edgeBody u .right)) (whileRun (edgeToSide .left (r.edgeBody u .left)) s)

/-! ### The ownership rule (R126 to R128) -/

/-- What the ownership rule decides for an own bin. -/
inductive Ownership where
  | kept | won | lost
deriving DecidableEq, Repr

/-- The ownership rule for an own bin record against the peer entries; the first entry naming the bin is used (R126, R127). -/
def ownership (own neighbour : Nat) (entries : List EdgeEntry) (b : BinRecord) : Ownership :=
  match entries.find? fun (e : EdgeEntry) => e.bin == b.bin with
  | none => .kept
  | some e =>
    if e.qBest < b.qBest then .won
    else if b.qBest < e.qBest then .lost
    else if e.nLast < b.nLast then .won
    else if b.nLast < e.nLast then .lost
    else if own < neighbour then .won
    else .lost

/-- The mark an outcome makes (R128). -/
def BinRecord.mark (b : BinRecord) : Ownership → BinRecord
  | .kept => b
  | .won => { b with contested := true }
  | .lost => { b with ceded := true }

/-- The peer list of an edge: empty when its gap flag is set (R125). -/
def PeerEdge.peers (e : PeerEdge) : List EdgeEntry := if e.gap then [] else e.entries

/-- The own bin records after an edge is applied to a side (R126, R128). A zone exists only where a neighbour is configured (R112),
so the default of the neighbour's number is never reached. -/
def stitchBins (u : Setup) (own : Nat) (sd : Side) (peers : List EdgeEntry) (bins : List BinRecord) : List BinRecord :=
  bins.map fun (b : BinRecord) =>
    if u.inZone sd b.bin then b.mark (ownership own ((u.neighbour sd).getD own) peers b) else b

/-- The CEDED records of a bin list. -/
def countCeded (bins : List BinRecord) : Nat := (bins.filter fun (b : BinRecord) => b.ceded).length

/-- An edge applied to a side of a record: its zone's bins are marked, the ceded count rises by the bins newly CEDED, and the
side becomes SETTLED (R122, R126, R128). -/
def SectionRecord.applyEdge (u : Setup) (own : Nat) (sd : Side) (e : PeerEdge) (r : SectionRecord) : SectionRecord :=
  let bins := stitchBins u own sd e.peers r.bins
  ({ r with
      bins := bins
      summary := { r.summary with
        cededCount := r.summary.cededCount + (countCeded bins - countCeded r.bins) } }).setSide sd .settled

/-! ### Edges received (R118 to R125) -/

/-- The side an edge belongs to, from its side field and the side its sender is configured on (R119). R119's table has no row for an edge
whose sender is no neighbour when the handler takes it (kept in RUN, then a RESTART, a SETUP of item 12 and a START taken before it): it
belongs to no side, so it is discarded as EDGE_UNMATCHED (DESIGN CHOICE, unsafe, log 27). -/
def edgeBelongs (u : Setup) (sender : Nat) (field : Option EdgeSide) : Option Side :=
  match u.sideOf sender, field with
  | some .left, some .right | some .left, some .both => some .left
  | some .right, some .left | some .right, some .both => some .right
  | _, _ => none

/-- The held peer edge of a side. -/
def SectionRecord.heldEdge (r : SectionRecord) : Side → Option PeerEdge
  | .left => r.leftEdge
  | .right => r.rightEdge

/-- A held peer edge set. -/
def SectionRecord.holdEdge (sd : Side) (e : PeerEdge) (r : SectionRecord) : SectionRecord :=
  match sd with
  | .left => { r with leftEdge := some e }
  | .right => { r with rightEdge := some e }

/-- An edge that belongs to a side meets the record of its section: held while SWEEPING, applied while HELD with the side
AWAITED, otherwise discarded as EDGE_UNMATCHED (R121 to R123). -/
def edgeMeets (r : SectionRecord) (sd : Side) (e : PeerEdge) (s : State) : State :=
  match r.state with
  | .sweeping =>
    match r.heldEdge sd with
    | none => s.onStore fun st => st.modify r.number (SectionRecord.holdEdge sd e)
    | some _ => record .edgeUnmatched s
  | .held =>
    if r.side sd = .awaited then
      startReport (s.onStore fun st => st.modify r.number fun x =>
        (x.applyEdge s.ctrl.setup s.ctrl.ownNumber.toNat sd e).readyIfSettled)
    else record .edgeUnmatched s
  | .ready | .sending => record .edgeUnmatched s

/-- An EDGE is handled (R118 to R123). -/
def handleEdge (t : Received) (s : State) : State :=
  if Config.edgeEntriesMax < byteAt t.payload 4 then record .edgeUnmatched s
  else
    match edgeBelongs s.ctrl.setup t.sender (edgeSideAt t.payload) with
    | none => record .edgeUnmatched s
    | some sd =>
      match s.store.find (word24At t.payload 0) with
      | none => record .edgeUnmatched s
      | some r => edgeMeets r sd (readPeerEdge t.payload) s

/-- EDGE (R118). -/
def execEdge (s : State) : Host.Outcome State Fault Refusal := live (takeOldest (Received.isKind .edge) handleEdge) s

/-- A held peer edge, if there is one, applied to its side at sweep completion (R124). -/
def SectionRecord.applyHeld (u : Setup) (own : Nat) (sd : Side) (r : SectionRecord) : SectionRecord :=
  match r.heldEdge sd with
  | some e => r.applyEdge u own sd e
  | none => r

/-- Both held peer edges applied, left first, and then absent (R124). -/
def SectionRecord.applyHeldEdges (u : Setup) (own : Nat) (r : SectionRecord) : SectionRecord :=
  { (r.applyHeld u own .left).applyHeld u own .right with leftEdge := none, rightEdge := none }

end Sys2Proof.Machine
end

