-- ==== Sys2Proof/Machine/Watch.lean ====
section
/-! DEFINITION. The watch unit (chapter 8): the evaluation of a section, and the peer alerts. Meanings of ALERT_RAISE and
ALERT_END. -/

namespace Sys2Proof.Machine

/-! ### Spans (R136) -/

/-- An intrusion span of a section and its clearance. -/
structure Span where
  first     : Nat
  last      : Nat
  clearance : Int
deriving DecidableEq, Repr

/-- The open span continued over the remaining INTRUSION bins, each joining when it exceeds the last by at most 2. -/
def joinSpans (cur : Span) : List (Nat × Int) → List Span
  | [] => [cur]
  | (b, c) :: rest =>
    if b ≤ cur.last + 2 then joinSpans ⟨cur.first, b, min cur.clearance c⟩ rest
    else cur :: joinSpans ⟨b, b, c⟩ rest

/-- The INTRUSION bins of a bin list with their clearances, in the list's order. -/
def intrusionBins (bins : List BinRecord) : List (Nat × Int) :=
  bins.filterMap fun b =>
    match b.intrusion, b.cMin with
    | true, some c => some (b.bin, c)
    | _, _ => none

/-- The intrusion spans of a section, in ascending first bin (R136). -/
def spansOf (bins : List BinRecord) : List Span :=
  match intrusionBins bins with
  | [] => []
  | (b, c) :: rest => joinSpans ⟨b, b, c⟩ rest

/-! ### Ranges of bins -/

/-- Two ranges a..b and c..d are near: they overlap, or their nearest ends are at most 2 apart (08, section 8.3). -/
def near (a b c d : Nat) : Bool := decide (c ≤ b + 2) && decide (a ≤ d + 2)

/-- Two ranges a..b and c..d share a bin (R139); on whole numbers, and false of an empty range (R145). -/
def intersects (a b c d : Int) : Bool := decide (max a c ≤ min b d)

/-- Some peer record's span intersects a span. -/
def Watch.corroborates (w : Watch) (first last : Nat) : Bool :=
  w.peers.any fun p => intersects first last p.first p.last

/-! ### Groups (R137) -/

/-- A group of near spans and local records: its range and its members. -/
structure SpanGroup where
  first  : Nat
  last   : Nat
  locals : List LocalRecord
  spans  : List Span
deriving DecidableEq, Repr

/-- The group of one span (R137 step 1). -/
def SpanGroup.ofSpan (sp : Span) : SpanGroup := ⟨sp.first, sp.last, [], [sp]⟩

/-- The group with new members and its range over all of them (R137 step 2). -/
def SpanGroup.join (g : SpanGroup) (ls : List LocalRecord) (sps : List Span) : SpanGroup where
  first := (ls.map (·.first) ++ sps.map (·.first)).foldl min g.first
  last := (ls.map (·.last) ++ sps.map (·.last)).foldl max g.last
  locals := g.locals ++ ls
  spans := g.spans ++ sps

/-- The group grown until nothing more joins, with the records and spans left over (R137 steps 2 and 3). Each round that goes on
takes at least one record or span, so as many rounds as there are of both are enough. -/
def growGroup : Nat → SpanGroup → List LocalRecord → List Span → SpanGroup × List LocalRecord × List Span
  | 0, g, ls, sps => (g, ls, sps)
  | n + 1, g, ls, sps =>
    let l := ls.partition fun (r : LocalRecord) => near g.first g.last r.first r.last
    let p := sps.partition fun (sp : Span) => near g.first g.last sp.first sp.last
    if l.1.isEmpty && p.1.isEmpty then (g, ls, sps)
    else growGroup n (g.join l.1 p.1) l.2 p.2

/-- All groups of a section in ascending first bin of their opening span, and the local records no group took in (R137). -/
def gatherGroups : Nat → List Span → List LocalRecord → List SpanGroup × List LocalRecord
  | 0, _, ls => ([], ls)
  | _ + 1, [], ls => ([], ls)
  | n + 1, sp :: sps, ls =>
    let g := growGroup (ls.length + sps.length) (.ofSpan sp) ls sps
    let rest := gatherGroups n g.2.2 g.2.1
    (g.1 :: rest.1, rest.2)

/-! ### Alerts (R144, R149) -/

/-- The ALERT telegram of a record, to every station (R144). -/
def LocalRecord.alert (r : LocalRecord) (id : Nat) (isEnd : Bool) (current : Nat) : Telegram :=
  ⟨Config.everyStation,
    .alert { isEnd := isEnd, corroborated := r.corroborated, id := id, spanFirst := r.first, spanLast := r.last,
             firstSection := r.firstSection, currentSection := current, minClearance := r.minClearance,
             lastSection := r.lastSection }⟩

/-- A record has left the table: an ALERT END for its id, or, with its RAISE still owed, the RAISE withdrawn and TX_DROPPED
recorded (R138, R141, R149). A record without an id produces nothing. -/
def endRecord (current : Nat) (r : LocalRecord) (s : State) : State :=
  match r.id with
  | none => s
  | some id =>
    if r.owed then
      record .txDropped (s.onWatch fun w => { w with owed := w.owed.filter fun t => !t.isRaiseOf id })
    else produceA (r.alert id true current) s

/-! ### Confirmation (R140) -/

/-- A record joins the table at its place in ascending first bin. -/
def insertLocal (r : LocalRecord) : List LocalRecord → List LocalRecord
  | [] => [r]
  | x :: rest => if r.first ≤ x.first then r :: x :: rest else x :: insertLocal r rest

/-- The first id from the counter on that no live local record carries (R140 step 1). -/
def Watch.freeId (w : Watch) : Option Nat :=
  ((List.range 256).map fun i => (w.idCounter + i) % 256).find? fun id => w.locals.all fun r => decide (r.id ≠ some id)

/-- The record in the table. -/
def putLocal (r : LocalRecord) (s : State) : State := s.onWatch fun w => { w with locals := insertLocal r w.locals }

/-- A PENDING record, its count just increased, put into the table and confirmed if the count has reached its threshold: 1 where
a peer span intersects its own, CONFIRM otherwise (R140). -/
def confirmOrWait (current : Nat) (r : LocalRecord) (s : State) : State :=
  let seen := s.watch.corroborates r.first r.last
  if (if seen then 1 else s.ctrl.setup.watchItem.confirm) ≤ r.confirm then
    match s.watch.freeId with
    | none => putLocal r s
    | some id =>
      let r' := { r with state := .raised, id := some id, corroborated := r.corroborated || seen }
      produceA (r'.alert id false current) ((putLocal r' s).onWatch fun w => { w with idCounter := (id + 1) % 256 })
  else putLocal r s

/-! ### Merging and updating (R138, R139) -/

/-- One record comes before another as the one a merge keeps: a lower id, an id before none, and without ids the lower first
bin (R138). -/
def LocalRecord.keptBefore (x y : LocalRecord) : Bool :=
  match x.id, y.id with
  | some i, some j => decide (i ≤ j)
  | some _, none => true
  | none, some _ => false
  | none, none => decide (x.first ≤ y.first)

/-- The record a merge keeps. -/
def pickKept (r : LocalRecord) : List LocalRecord → LocalRecord
  | [] => r
  | x :: rest => if r.keptBefore x then pickKept r rest else pickKept x rest

/-- The records ordered by id, those without one last: the order in which a merge produces its ENDs (R138). -/
def insertById (r : LocalRecord) : List LocalRecord → List LocalRecord
  | [] => [r]
  | x :: rest => if r.keptBefore x then r :: x :: rest else x :: insertById r rest

/-- The state of a merged record: RAISED if any was, else EASING if any was, else PENDING (R138). -/
def mergedState (rs : List LocalRecord) : WatchState :=
  if rs.any fun (r : LocalRecord) => decide (r.state = .raised) then .raised
  else if rs.any fun (r : LocalRecord) => decide (r.state = .easing) then .easing
  else .pending

/-- The record a matched group becomes: merged (R138), then updated with the group's spans (R139), its state not yet moved. -/
def SpanGroup.merged (g : SpanGroup) (current : Nat) (kept : LocalRecord) : LocalRecord where
  first := g.first
  last := g.last
  state := mergedState g.locals
  confirm := (g.locals.map (·.confirm)).foldl max kept.confirm
  clearCount := 0
  minClearance := (g.locals.map (·.minClearance) ++ g.spans.map (·.clearance)).foldl min kept.minClearance
  firstSection := (g.locals.map (·.firstSection)).foldl min kept.firstSection
  lastSection := current
  id := kept.id
  corroborated := g.locals.any (·.corroborated)
  owed := kept.owed

/-- The merged record's state moves: a PENDING record counts and may be confirmed; a RAISED or EASING one is RAISED, and
corroborated if a peer span intersects it (R139). -/
def advanceMerged (current : Nat) (r : LocalRecord) (s : State) : State :=
  match r.state with
  | .pending => confirmOrWait current { r with confirm := r.confirm + 1 } s
  | .raised | .easing =>
    putLocal { r with state := .raised, corroborated := r.corroborated || s.watch.corroborates r.first r.last } s

/-- Step 2 of the evaluation for one group: with local records, they become one (R138, R139); without, the group is dropped. -/
def updateGroup (current : Nat) (g : SpanGroup) (s : State) : State :=
  match g.locals with
  | [] => s
  | r :: rest =>
    let kept := pickKept r rest
    let removed := ((g.locals.erase kept).foldr insertById []).filter fun (x : LocalRecord) => x.id.isSome
    let s := s.onWatch fun w => { w with locals := w.locals.filter fun x => !(g.locals.contains x) }
    let s := removed.foldl (fun s x => whileRun (endRecord current x) s) s
    whileRun (advanceMerged current (g.merged current kept)) s

/-! ### Records not matched, new records, ageing (R141 to R143) -/

/-- The clearances of a record's viewed bins (R141). -/
def LocalRecord.viewed (r : LocalRecord) (bins : List BinRecord) : List Int :=
  bins.filterMap fun (b : BinRecord) => if r.first ≤ b.bin ∧ b.bin ≤ r.last then b.cMin else none

/-- A local record with one clear section more: ended at CLEAR_COUNT, EASING below it (R141). -/
def easeRecord (current count : Nat) (r : LocalRecord) (s : State) : State :=
  if s.ctrl.setup.watchItem.clearCount ≤ count then
    endRecord current r (s.onWatch fun w => { w with locals := w.locals.erase r })
  else
    s.onWatch fun w => { w with
      locals := w.locals.map fun x => if x = r then { r with state := .easing, clearCount := count } else x }

/-- Step 3 of the evaluation for one unmatched record (R141). -/
def moveUnmatched (current : Nat) (bins : List BinRecord) (r : LocalRecord) (s : State) : State :=
  let view := r.viewed bins
  if view.isEmpty then s
  else
    match r.state with
    | .pending => s.onWatch fun w => { w with locals := w.locals.erase r }
    | .raised => if view.all fun c => decide ((s.ctrl.setup.watchItem.hyst : Int) ≤ c) then easeRecord current 1 r s else s
    | .easing =>
      if view.all fun c => decide ((s.ctrl.setup.watchItem.hyst : Int) ≤ c) then easeRecord current (r.clearCount + 1) r s else s

/-- Records in use, local and peer (R133). -/
def Watch.inUse (w : Watch) : Nat := w.locals.length + w.peers.length

/-- Step 4 of the evaluation for one span that no local record matched (R142). -/
def createLocal (current : Nat) (sp : Span) (s : State) : State :=
  if Config.watchCapacity ≤ s.watch.inUse then record .watchFull s
  else
    confirmOrWait current
      { first := sp.first, last := sp.last, state := .pending, confirm := 1, clearCount := 0, minClearance := sp.clearance,
        firstSection := current, lastSection := current, id := none, corroborated := false, owed := false } s

/-- Step 5 of the evaluation: every peer record ages by one sweep (R143). -/
def agePeers (s : State) : State :=
  s.onWatch fun w => { w with
    peers := (w.peers.map fun p => { p with age := p.age - 1 }).filter fun p => decide (0 < p.age) }

/-- The evaluation of a section at its sweep completion (R135). Groups are merged and updated one after another, in ascending
order (DEDUCED, unsafe, log 13). -/
def evaluateSection (current : Nat) (bins : List BinRecord) (s : State) : State :=
  let spans := spansOf bins
  let gathered := gatherGroups spans.length spans s.watch.locals
  let fresh := (gathered.1.filter fun g => g.locals.isEmpty).flatMap (·.spans)
  let s := gathered.1.foldl (fun s g => whileRun (updateGroup current g) s) s
  let s := gathered.2.foldl (fun s r => whileRun (moveUnmatched current bins r) s) s
  let s := fresh.foldl (fun s sp => whileRun (createLocal current sp) s) s
  whileRun agePeers s

/-! ### Peer alerts (R145, R146) -/

/-- Every local RAISED record that intersects a span is corroborated (R145 step 4). -/
def corroborateRaised (first last : Nat) (s : State) : State :=
  s.onWatch fun w => { w with
    locals := w.locals.map fun r =>
      if r.state = .raised && intersects r.first r.last first last then { r with corroborated := true } else r }

/-- The peer record of a RAISE refreshed, or created within the coverage range widened by GUARD (R145 steps 1 to 3). -/
def notePeer (source : Nat) (a : Alert) (s : State) : State :=
  let u := s.ctrl.setup
  if s.watch.peers.any fun p => p.source == source && p.id == a.id then
    s.onWatch fun w => { w with
      peers := w.peers.map fun p =>
        if p.source = source ∧ p.id = a.id then
          { p with first := a.spanFirst, last := a.spanLast, age := u.watchItem.peerAge } else p }
  else
    match u.zones with
    | none => s
    | some z =>
      let guard : Int := u.watchItem.guard
      if intersects a.spanFirst a.spanLast ((z.coverage.lo : Int) - guard) ((z.coverage.hi : Int) + guard) then
        if Config.watchCapacity ≤ s.watch.inUse then record .watchFull s
        else s.onWatch fun w => { w with peers := w.peers ++ [⟨source, a.id, a.spanFirst, a.spanLast, u.watchItem.peerAge⟩] }
      else s

/-- An ALERT RAISE is handled; one whose first bin is above its last is discarded (R145). -/
def handleRaise (t : Received) (s : State) : State :=
  let a := readAlert t.payload
  if a.spanLast < a.spanFirst then s
  else corroborateRaised a.spanFirst a.spanLast (notePeer t.sender a s)

/-- An ALERT END is handled (R146). -/
def handleEnd (t : Received) (s : State) : State :=
  let a := readAlert t.payload
  s.onWatch fun w => { w with peers := w.peers.filter fun p => !(p.source == t.sender && p.id == a.id) }

/-- The telegram is an ALERT that ALERT_RAISE or ALERT_END takes: of its phase, or of a length that is not admitted, which either
of the two discards alike (DESIGN CHOICE, safe, log 14). -/
def Received.isAlert (isEnd : Bool) (t : Received) : Bool :=
  decide (t.kind = .alert) && (!lengthAdmitted .alert t.payload || (readAlert t.payload).isEnd == isEnd)

/-- ALERT_RAISE (R145). -/
def execAlertRaise (s : State) : Host.Outcome State Fault Refusal := live (takeOldest (Received.isAlert false) handleRaise) s

/-- ALERT_END (R146). -/
def execAlertEnd (s : State) : Host.Outcome State Fault Refusal := live (takeOldest (Received.isAlert true) handleEnd) s

end Sys2Proof.Machine
end

