-- ==== Sys2Proof/Machine/Sequencer.lean ====
section
/-! DEFINITION. The emitter sequencer (chapter 3): the element table, the sweep, dwell adaptation, sweep completion. Meanings of
DWELL_EXPIRY and GAP_EXPIRY. -/

namespace Sys2Proof.Machine

/-! ### The element table (R31) -/

/-- The element table initialised from the CALIB items; all eight are present at entry into RUN (R174), and an absent one would
leave a disabled element (log 16). -/
def initTable (u : Setup) : Vector Element 64 :=
  Vector.ofFn fun e =>
    match u.calib[e.val / 8] with
    | some item =>
      let x := item[e.val % 8]
      { angle := x.angle, offset := x.offset, enabled := x.enabled, cls := x.cls, weakRun := 0 }
    | none => { angle := 0, offset := 0, enabled := false, cls := .short, weakRun := 0 }

/-! ### Building the sweep (R33 to R37) -/

/-- A window contains an angle (R34). -/
def Exclusion.contains (w : Exclusion) (a : Nat) : Bool :=
  decide (((a : Int) - w.start) % Config.turn ≤ ((w.stop : Int) - w.start) % Config.turn)

/-- An angle lies in some present exclusion window (R34). -/
def Setup.excludes (u : Setup) (a : Nat) : Bool :=
  (u.exclusion.toList.filterMap id).any fun w => w.contains a

/-- The beam angle of an element (R33). -/
def beamAngle (h : Head) (cant : Int) (x : Element) : Nat := reduceAngle ((x.angle : Int) + h.mount + cant)

/-- The element is to be fired: enabled, and its beam angle in no exclusion window (R35). -/
def toFire (u : Setup) (h : Head) (cant : Int) (x : Element) : Bool := x.enabled && !(u.excludes (beamAngle h cant x))

/-- The element is excluded: enabled, and its beam angle in an exclusion window (R35). -/
def isExcluded (u : Setup) (h : Head) (cant : Int) (x : Element) : Bool := x.enabled && u.excludes (beamAngle h cant x)

/-- The dwell of an element (R37). -/
def elementDwell (w : SweepItem) (reduced : Bool) (x : Element) : Nat :=
  if reduced then w.dwellShort
  else
    match x.cls with
    | .short => w.dwellShort
    | .long => w.dwellLong

/-- The group that element e leads, if it leads one (R36, R37): a pair with e + 32, or itself alone. -/
def groupLedBy (w : SweepItem) (reduced : Bool) (table : Vector Element 64) (fire : Element → Bool) (e : Fin 64) : Option FiringGroup :=
  let pairs := w.pairing && !reduced
  let x := table[e]
  if !fire x then none
  else
    let y := table[(e + 32 : Fin 64)]
    if pairs && fire y then
      if e.val < 32 then some ⟨e.val, true, max (elementDwell w reduced x) (elementDwell w reduced y)⟩ else none
    else some ⟨e.val, false, elementDwell w reduced x⟩

/-- The group list in firing order (R36). -/
def buildGroups (w : SweepItem) (reduced : Bool) (table : Vector Element 64) (fire : Element → Bool) : List FiringGroup :=
  (List.finRange 64).filterMap (groupLedBy w reduced table fire)

/-- The members of a group in ascending element number. -/
def FiringGroup.members (g : FiringGroup) : List Nat := if g.paired then [g.lead, g.lead + 32] else [g.lead]

/-- The sweep time in units of 0.5 µs (R43). -/
def sweepTime (groups : List FiringGroup) (gap : Nat) : Nat := (groups.map (·.dwell)).sum + groups.length * gap

/-! ### Sweep completion (R42, R95) -/

/-- The sweep is over: sweep state IDLE, group list emptied, its fixed properties and the geometry dropped, and what remains of a
section scan goes on as a periodic scan (R22, R42, R61). -/
def closeSweep (s : State) : State := endSectionScan (endSweep s)

/-- Sweep completion (R42) with the steps of R95: the record becomes HELD, its edges are sent, held peer edges applied, the watch
evaluates it, its window starts, and it may become READY and report. -/
def completeSweep (s : State) : State :=
  let s := closeSweep s
  match s.store.sweeping with
  | none => s
  | some r =>
    let n := r.number
    let s := s.onSweeping fun r => { r with state := .held }
    let s := sendEdges r s
    let s := s.onStore fun st => st.modify n (SectionRecord.applyHeldEdges s.ctrl.setup s.ctrl.ownNumber.toNat)
    let s := whileRun (evaluateSection n r.bins) s
    startReport (s.onStore fun st => st.modify n (SectionRecord.startWindow s.ctrl.setup))

/-! ### Running the sweep (R39, R40) -/

/-- The row and column drivers of a group (R33). -/
def FiringGroup.rows (g : FiringGroup) : BitVec 8 :=
  BitVec.ofNat 8 (if g.paired then 2 ^ (g.lead / 8) + 2 ^ (g.lead / 8 + 4) else 2 ^ (g.lead / 8))

/-- The column driver of a group (R33). -/
def FiringGroup.cols (g : FiringGroup) : BitVec 8 := BitVec.ofNat 8 (2 ^ (g.lead % 8))

/-- The group at a place of the list starts: driven, its acceptance opened with empty lists and clear marks (R40, R55). Past the end
of the list the sweep completes (R42). -/
def startGroup (k : Nat) (s : State) : State :=
  match s.seq.groups[k]? with
  | none => completeSweep s
  | some g =>
    (s.onSeq fun q => { q with sweep := .dwell k, rows := g.rows, cols := g.cols }).onEcho
      fun x => { x with acceptance := some (g.members.map fun e => ⟨e, [], false⟩) }

/-- Sweep start (R39): angles, decisions and counts, group list, geometry, then the first group or, with none, completion. The
items and the table read here are present in RUN (R174, log 16). -/
def startSweep (s : State) : State :=
  let u := s.ctrl.setup
  match u.head, u.sweep, s.seq.table with
  | some h, some w, some table =>
    let cant := s.conv.cant
    let reduced := s.conv.supplyWeak
    let fire := toFire u h cant
    let fired := (table.toList.filter fire).length
    let excluded := (table.toList.filter (isExcluded u h cant)).length
    let o := headOrigin h cant
    let s := s.onSweeping (SectionRecord.onSummary fun m => { m with sweep := some ⟨cant, reduced, fired, excluded⟩ })
    let s := s.onSeq fun q => { q with groups := buildGroups w reduced table fire, fixed := some ⟨cant, reduced⟩ }
    let s := s.onEcho fun x => { x with geometry := some ⟨cant, o.1, o.2, table.toList.map (beamAngle h cant)⟩ }
    startGroup 0 s
  | _, _, _ => s

/-! ### Dwell adaptation (R44, R45) -/

/-- Outcomes of a member (R44). -/
inductive EchoOutcome where
  | weak | saturated | normal
deriving DecidableEq, Repr

/-- The outcome of what was handed back for a member (R44). -/
def outcomeOf (ampLo : Nat) : Option (Nat × Bool) → EchoOutcome
  | none => .weak
  | some (amplitude, saturated) => if amplitude < ampLo then .weak else if saturated then .saturated else .normal

/-- An element record after an outcome (R45). -/
def Element.adapt (x : Element) (weakLimit : Nat) (o : EchoOutcome) : Element :=
  match o, x.cls with
  | .weak, .short =>
    if weakLimit ≤ x.weakRun + 1 then { x with cls := .long, weakRun := 0 } else { x with weakRun := x.weakRun + 1 }
  | .weak, .long => { x with weakRun := 0 }
  | .saturated, .short => { x with weakRun := 0 }
  | .saturated, .long => { x with cls := .short, weakRun := 0 }
  | .normal, _ => { x with weakRun := 0 }

/-- A member of the closed group adapted (R45). -/
def adaptMember (w : SweepItem) (b : HandBack) (s : State) : State :=
  s.onSeq fun q => { q with
    table := q.table.map fun t =>
      if h : b.element < 64 then t.set b.element (t[b.element].adapt w.weakLimit (outcomeOf w.ampLo b.last)) h else t }

/-- The members of the closed group adapted; in a REDUCED sweep adaptation is suspended (R41 step 4, R45). -/
def adaptGroup (backs : List HandBack) (s : State) : State :=
  match s.ctrl.setup.sweep, s.seq.fixed with
  | some w, some x => if x.reduced then s else backs.foldl (fun s b => adaptMember w b s) s
  | _, _ => s

/-! ### Commands -/

/-- A group's dwell expires, in DWELL: drivers released, group closed, members adapted, gap begun (R41). -/
def dwellExpired (s : State) : State :=
  match s.seq.sweep with
  | .dwell k =>
    let s := s.onSeq fun q => { q with rows := 0, cols := 0 }
    let closed := closeGroup s
    (adaptGroup closed.1 closed.2).onSeq fun q => { q with sweep := .gap k }
  | .idle | .waiting | .gap _ => s

/-- DWELL_EXPIRY (R41). -/
def execDwellExpiry (s : State) : Host.Outcome State Fault Refusal := live dwellExpired s

/-- The gap after a group expires, in GAP: the next group starts, or the sweep completes (R42). -/
def gapExpired (s : State) : State :=
  match s.seq.sweep with
  | .gap k => startGroup (k + 1) s
  | .idle | .waiting | .dwell _ => s

/-- GAP_EXPIRY (R42). -/
def execGapExpiry (s : State) : Host.Outcome State Fault Refusal := live gapExpired s

end Sys2Proof.Machine
end

