-- ==== Sys2Proof/Machine/Converter.lean ====
section
/-! DEFINITION. The auxiliary converter (chapter 2): scans, cant, and the SUPPLY_WEAK and OVER_TEMP conditions. Meanings of
SETTLE_EXPIRY, CANT_COMPLETION, SUPPLY_COMPLETION, TEMP_COMPLETION and SCAN_INTERVAL_EXPIRY. Until item 30 is stored no
conversion takes place (R18). -/

namespace Sys2Proof.Machine

/-- The settle time of a channel (R17). -/
def Aux.settle (a : Aux) : Channel → Nat
  | .cant => a.cantSettle
  | .supply => a.supSettle
  | .temp => a.tempSettle

/-- A channel begins SETTLING under the settle time now in force (R17, R18). -/
def settleChannel (ch : Channel) (s : State) : State :=
  match s.ctrl.setup.aux with
  | some a => s.onConv fun c => { c with work := some ⟨ch, .settling (a.settle ch)⟩ }
  | none => s

/-- A section scan begins with CANT; a periodic scan in progress is abandoned with its conversion (R17, R19, R24). -/
def beginSectionScan (s : State) : State := settleChannel .cant (s.onConv fun c => { c with scan := .sectionScan })

/-- The channel in progress is the one named, and converting. -/
def Converter.converts (c : Converter) (ch : Channel) : Bool := decide (c.work = some ⟨ch, .converting⟩)

/-- The raw cant of a code (R21). -/
def rawCant (a : Aux) (code : Nat) : Int := roundHalfAway (((code : Int) - a.cantZero) * a.cantGain) 256

/-- The cant limited to −CANT_LIM..CANT_LIM (R21). -/
def limitCant (a : Aux) (raw : Int) : Int := clampInt (-(a.cantLim : Int)) a.cantLim raw

/-- The current cant computed from a code; CANT_CLAMP recorded if it was clamped (R21). -/
def takeCant (a : Aux) (code : Nat) (s : State) : State :=
  let raw := rawCant a code
  let s := s.onConv fun c => { c with cant := limitCant a raw }
  if limitCant a raw = raw then s else record .cantClamp s

/-- A CANT conversion completes: the cant, then in a section scan the sweep, then SUPPLY settles (R20, R21, R22). -/
def cantCompleted (code : BitVec 12) (s : State) : State :=
  match s.ctrl.setup.aux with
  | none => s
  | some a =>
    if s.conv.converts .cant then
      let s := takeCant a code.toNat s
      let s := if s.conv.scan = .sectionScan ∧ s.seq.sweep = .waiting then startSweep s else s
      settleChannel .supply s
    else s

/-- The SUPPLY_WEAK condition evaluated on a code (R25). -/
def takeSupply (a : Aux) (code : Nat) (s : State) : State :=
  if s.conv.supplyWeak then
    if a.supLo + a.supHyst ≤ code then s.onConv fun c => { c with supplyWeak := false } else s
  else if code < a.supLo then record .supplyWeak (s.onConv fun c => { c with supplyWeak := true })
  else s

/-- A SUPPLY conversion completes: the condition, then TEMP settles (R17, R25). -/
def supplyCompleted (code : BitVec 12) (s : State) : State :=
  match s.ctrl.setup.aux with
  | none => s
  | some a => if s.conv.converts .supply then settleChannel .temp (takeSupply a code.toNat s) else s

/-- The OVER_TEMP condition evaluated on a code (R26). -/
def takeTemp (a : Aux) (code : Nat) (s : State) : State :=
  if s.conv.overTemp then
    if (code : Int) < (a.tempHi : Int) - a.tempHyst then s.onConv fun c => { c with overTemp := false } else s
  else if a.tempHi ≤ code then record .overTemp (s.onConv fun c => { c with overTemp := true })
  else s

/-- The completion of a scan: the converter returns to IDLE and the scan interval starts (R17, R23). -/
def completeScan (s : State) : State :=
  s.onConv fun c => { c with scan := .idle, work := none, intervalRunning := true }

/-- A TEMP conversion completes: the condition, then the scan (R17, R26). -/
def tempCompleted (code : BitVec 12) (s : State) : State :=
  match s.ctrl.setup.aux with
  | none => s
  | some a => if s.conv.converts .temp then completeScan (takeTemp a code.toNat s) else s

/-- A channel's settle time expires: its conversion begins (R17). -/
def settleExpired (s : State) : State :=
  match s.conv.work with
  | some ⟨ch, .settling _⟩ => s.onConv fun c => { c with work := some ⟨ch, .converting⟩ }
  | some ⟨_, .converting⟩ | none => s

/-- The running scan interval expires: it stops, and from IDLE a periodic scan begins (R23). -/
def intervalExpired (s : State) : State :=
  if s.conv.intervalRunning then
    let s := s.onConv fun c => { c with intervalRunning := false }
    if s.conv.scan = .idle then settleChannel .cant (s.onConv fun c => { c with scan := .periodic }) else s
  else s

/-- SETTLE_EXPIRY (R17). -/
def execSettleExpiry (s : State) : Host.Outcome State Fault Refusal := live settleExpired s

/-- CANT_COMPLETION (R20, R21). -/
def execCantCompletion (code : BitVec 12) (s : State) : Host.Outcome State Fault Refusal := live (cantCompleted code) s

/-- SUPPLY_COMPLETION (R25). -/
def execSupplyCompletion (code : BitVec 12) (s : State) : Host.Outcome State Fault Refusal := live (supplyCompleted code) s

/-- TEMP_COMPLETION (R26). -/
def execTempCompletion (code : BitVec 12) (s : State) : Host.Outcome State Fault Refusal := live (tempCompleted code) s

/-- SCAN_INTERVAL_EXPIRY (R23). -/
def execScanIntervalExpiry (s : State) : Host.Outcome State Fault Refusal := live intervalExpired s

end Sys2Proof.Machine
end

