-- ==== Sys2Proof/Machine/Odometry.lean ====
section
/-! DEFINITION. The odometry unit (chapter 1): counting, thresholds, the trigger tests, the start and the skip of a section.
Meaning of PHASE_TRANSITION. -/

namespace Sys2Proof.Machine

/-! ### Counting (R1 to R4) -/

/-- The direction of a legal transition: true is forward. A change of A is forward when A then differs from B; a change of B is
forward when B then equals A (R2). -/
def forwardStep (old new : Phase) : Bool := if old.a ≠ new.a then decide (new.a ≠ new.b) else decide (new.a = new.b)

/-- A legal transition is counted in a count mode: all in ×4, changes of A in ×2, changes of A while B is low in ×1 (R2). -/
def countedStep (mode : CountMode) (old new : Phase) : Bool :=
  match mode with
  | .x4 => true
  | .x2 => decide (old.a ≠ new.a)
  | .x1 => decide (old.a ≠ new.a) && !new.b

/-! ### Triggers (R9 to R12) -/

/-- A skipped section in the gap accumulator (R11). -/
def Store.skip (st : Store) (reason : GapReasons) : Store :=
  { st with gapCount := st.gapCount + 1, gapReasons := st.gapReasons.union reason }

/-- A section skipped, with its GAP EDGEs if the station is in RUN (R11, R12). -/
def skipSection (number : Nat) (reason : GapReasons) (s : State) : State :=
  sendGapEdges number (s.onStore (·.skip reason))

/-- A side of a new record: AWAITED where a neighbour is configured (R93). -/
def newSide (u : Setup) (sd : Side) : SideState := if (u.neighbour sd).isSome then .awaited else .none

/-- A record at its creation; it takes the gap accumulator (R88, R93). -/
def newRecord (u : Setup) (st : Store) (number : Nat) : SectionRecord where
  number := number
  state := .sweeping
  bins := []
  summary := { sweep := none, valid := 0, near := 0, far := 0, foreign := 0, suspectDropped := 0, cededCount := 0,
               gapBefore := st.gapCount, gapReasons := st.gapReasons, drainMark := false }
  leftSide := newSide u .left
  rightSide := newSide u .right
  leftEdge := none
  rightEdge := none
  windowCount := 0
  windowTimer := false
  partsQueued := 0

/-- A section is started: its record created, the accumulator emptied, a section scan begun, the sweep WAITING (R10, R38). -/
def startSection (number : Nat) (s : State) : State :=
  let s := s.onStore fun st =>
    { st with records := st.records ++ [newRecord s.ctrl.setup st number], gapCount := 0, gapReasons := .empty }
  let s := beginSectionScan s
  s.onSeq fun q => { q with sweep := .waiting }

/-- The trigger tests of a section, in order (R9). -/
def handleTrigger (number : Nat) (s : State) : State :=
  if s.ctrl.station = .halted then skipSection number .onlyHalt s
  else if s.conv.overTemp then skipSection number .onlyHot s
  else if s.store.sweeping.isSome then skipSection number .onlyBusy (record .sweepBusy s)
  else if Config.storeCapacity ≤ s.store.records.length then skipSection number .onlyStoreFull (record .storeFull s)
  else startSection number s

/-- A section trigger is issued: it counts towards the stitch windows first, then goes through the tests (R9, R97; the order is
DEDUCED, unsafe, log 8). -/
def triggerSection (number : Nat) (s : State) : State := handleTrigger number (countWindows s)

/-- The next section number after a trigger; the trigger of the last number sets the limit mark and records ODOMETER, after the
trigger itself has been handled (R7, R8; the order is a DESIGN CHOICE, unsafe, log 9). -/
def advanceNumber (number : Nat) (s : State) : State :=
  if number = Config.lastSection then record .odometer (s.onOdo fun o => { o with limitMark := true })
  else s.onOdo fun o => { o with nextSection := number + 1 }

/-- A threshold crossing: the next number is triggered unless the limit mark is set, and T_next advances by SPACING (R7, R8). A
threshold made absent by an entry to FAULT in between stays absent (R14). Without item 1 there is no threshold. -/
def thresholdCrossed (s : State) : State :=
  match s.ctrl.setup.survey with
  | none => s
  | some v =>
    let advance := fun s : State => s.onOdo fun o => { o with nextThreshold := o.nextThreshold.map (· + (v.spacing : Int)) }
    if s.odo.limitMark then countWindows (advance s)
    else
      let number := s.odo.nextSection
      advanceNumber number (advance (triggerSection number s))

/-- A counted forward step (R4, R7). -/
def stepForward (s : State) : State :=
  if Config.posMax ≤ s.odo.pos then record .odometer s
  else
    let s := s.onOdo fun o => { o with pos := o.pos + 1 }
    if (s.ctrl.station = .run ∨ s.ctrl.station = .halted) ∧ s.odo.nextThreshold = some s.odo.pos then thresholdCrossed s else s

/-- A counted backward step (R4). -/
def stepBackward (s : State) : State :=
  if s.odo.pos ≤ Config.posMin then record .odometer s else s.onOdo fun o => { o with pos := o.pos - 1 }

/-- A sampled pair: equal to the phase state, no transition; both phases changed, illegal; one changed, counted or not (R1 to R3). -/
def pairSampled (pair : Phase) (s : State) : State :=
  let old := s.odo.phase
  if pair = old then s
  else
    let s :=
      if old.a ≠ pair.a ∧ old.b ≠ pair.b then record .odometer s
      else if countedStep s.ctrl.setup.countMode old pair then
        if forwardStep old pair then stepForward s else stepBackward s
      else s
    s.onOdo fun o => { o with phase := pair }

/-- PHASE_TRANSITION (R1). -/
def execPhaseTransition (pair : Phase) (s : State) : Host.Outcome State Fault Refusal := live (pairSampled pair) s

/-! ### Entry into RUN, and STATUS (R6, R16) -/

/-- The odometry unit at entry into RUN from CONFIG: base, section 0, T_next, next number (R6). -/
def startOdometry (s : State) : State :=
  let s := s.onOdo fun o => { o with base := some o.pos, nextSection := 0, limitMark := false }
  let s := triggerSection 0 s
  let spacing : Int := match s.ctrl.setup.survey with
    | some v => v.spacing
    | none => 1
  s.onOdo fun o => { o with nextThreshold := o.base.map (· + spacing), nextSection := 1 }

/-- The newest triggered section (R16). -/
def Odometry.newest (o : Odometry) : Option Nat :=
  if o.limitMark then some Config.lastSection else if 0 < o.nextSection then some (o.nextSection - 1) else none

end Sys2Proof.Machine
end

