-- ==== Sys2Proof/Machine/Control.lean ====
section
/-! DEFINITION. Station control (chapter 10): SETUP, the START checks, entry into RUN, RESTART and reset. Meanings of
POWER_OR_PIN_RESET, RESET_ASSERTED, SETUP, START and RESTART. -/

namespace Sys2Proof.Machine

/-! ### SETUP (R171) -/

/-- An item taken in CONFIG: stored and marked; the first item 30 after reset starts the scan interval (R18, R171). -/
def storeSetup (p : List Byte) (s : State) : State :=
  let first := s.ctrl.setup.aux.isNone
  let s := s.onCtrl fun c => { c with
    setup := c.setup.storeItem p, marks := c.marks ||| BitVec.ofNat 32 (2 ^ (byteAt p 0 - 1)) }
  if byteAt p 0 = 30 ∧ first = true then s.onConv fun c => { c with intervalRunning := true } else s

/-- A SETUP is handled: stored in CONFIG when its number names an item; otherwise refused (R171). -/
def handleSetup (t : Received) (s : State) : State :=
  if s.ctrl.station = .config ∧ (itemLength (byteAt t.payload 0)).isSome then storeSetup t.payload s
  else record .setupRefused s

/-- SETUP (R171). -/
def execSetup (s : State) : Host.Outcome State Fault Refusal := live (takeOldest (Received.isKind .setup) handleSetup) s

/-! ### START (R173 to R175) -/

/-- A configured side's zone is bad: lower end above upper, or more than 32 bins (R174). -/
def badZone (neighbour : Option Nat) (z : BinRange) : Bool :=
  neighbour.isSome && (decide (z.hi < z.lo) || decide (Config.edgeEntriesMax < z.hi + 1 - z.lo))

/-- Item 12 fails (R174). -/
def zonesFail (own : Nat) (z : Zones) : Bool :=
  decide (z.left = some own) || decide (z.right = some own) || (z.left.isSome && decide (z.left = z.right))
    || badZone z.left z.leftZone || badZone z.right z.rightZone

/-- Two segments share a bin. -/
def Segment.overlaps (g h : Segment) : Bool := decide (max g.b0 h.b0 ≤ min g.b1 h.b1)

/-- The ENVELOPE item of entry j shares a bin with a present one of lower number (R174). -/
def envelopeFails (u : Setup) (j : Fin 12) : Bool :=
  match u.envelope[j] with
  | none => false
  | some g => (List.finRange 12).any fun i =>
      decide (i < j) && (match u.envelope[i] with
        | some h => g.overlaps h
        | none => false)

/-- An item fails its START checks (R174). -/
def itemFails (own : Nat) (u : Setup) (item : Nat) : Bool :=
  if item = 1 then
    match u.survey with
    | some v => decide (v.dMax ≤ v.dMin)
    | none => true
  else if item = 2 then u.head.isNone
  else if h : 3 ≤ item ∧ item < 11 then (u.calib[item - 3]'(by omega)).isNone
  else if item = 11 then
    match u.sweep with
    | some w => decide (w.dwellLong < w.dwellShort)
    | none => true
  else if item = 12 then
    match u.zones with
    | some z => zonesFail own z
    | none => true
  else if h : 13 ≤ item ∧ item < 25 then envelopeFails u ⟨item - 13, by omega⟩
  else if item = 30 then u.aux.isNone
  else if item = 31 then
    match u.line with
    | some l => decide (6 ≤ l.orderCode)
    | none => true
  else false

/-- The START checks: the first item, in ascending number, that fails (R174). -/
def startChecks (own : Nat) (u : Setup) : Option Nat := (List.range' 1 32).find? (itemFails own u)

/-- Entry into RUN from CONFIG (R175). -/
def enterRun (s : State) : State :=
  let s := s.onCtrl fun c => { c with failingItem := none }
  let s := { s with env := expandEnvelope s.ctrl.setup.envelope.toList }
  let s := s.onSeq fun q => { q with table := some (initTable s.ctrl.setup) }
  let s := s.onWatch fun _ => Watch.cleared
  let s := s.onCtrl fun c => { c with station := .run }
  startOdometry s

/-- A START is handled (R173). -/
def handleStart (_ : Received) (s : State) : State :=
  match s.ctrl.station with
  | .config =>
    match startChecks s.ctrl.ownNumber.toNat s.ctrl.setup with
    | some item => record .setupInvalid (s.onCtrl fun c => { c with failingItem := some item })
    | none => enterRun s
  | .halted => s.onCtrl fun c => { c with station := .run }
  | .run | .fault => s

/-- START (R173). -/
def execStart (s : State) : Host.Outcome State Fault Refusal := live (takeOldest (Received.isKind .start) handleStart) s

/-! ### RESTART (R178) -/

/-- The converter at RESTART (R28). -/
def Converter.restart (c : Converter) (auxStored : Bool) : Converter :=
  { c with scan := .idle, work := none, cant := 0, supplyWeak := false, overTemp := false, intervalRunning := auxStored }

/-- A group at RESTART: every telegram is removed but the one being transmitted (R167). -/
def Line.keepSending (l : Line) (g : TxGroup) : List Telegram :=
  match l.tx with
  | some t => if t.group = g then (l.group g).take 1 else []
  | none => []

/-- The line interface at RESTART: the queued telegrams removed, the one being transmitted condemned to leave its group when its
transmission ends (R167). -/
def Line.restart (l : Line) : Line :=
  { l with
    groupA := l.keepSending .a
    groupB := l.keepSending .b
    groupC := l.keepSending .c
    tx := l.tx.map fun t => { t with condemned := true } }

/-- The section store at RESTART (R109). -/
def Store.cleared : Store :=
  { records := [], gapCount := 0, gapReasons := .empty, drainPending := false, drainTarget := none, drainRequester := none }

/-- A RESTART is handled (R178). -/
def handleRestart (_ : Received) (s : State) : State :=
  let s := s.onCtrl fun c => { c with station := .config }
  let s := s.onOdo fun o => { o with base := none, nextThreshold := none, nextSection := 0, limitMark := false }
  let s := if s.seq.sweep = .idle then s else endSweep s
  let s := s.onConv fun c => c.restart s.ctrl.setup.aux.isSome
  let s := s.onStore fun _ => Store.cleared
  let s := s.onWatch fun _ => Watch.cleared
  let s := s.onLine Line.restart
  s.followAttention

/-- RESTART (R178). -/
def execRestart (s : State) : Host.Outcome State Fault Refusal := live (takeOldest (Received.isKind .restart) handleRestart) s

/-! ### Reset (R178, R179) -/

/-- The end of power or pin reset: every block in its reset state, the straps and the phase inputs sampled (R1, R178, R179). The
model's queue of waiting commands is not the station's, and stays (log 1). -/
def afterReset (straps : BitVec 4) (pair : Phase) (s : State) : State :=
  { State.reset with
    odo := { State.reset.odo with phase := pair }
    ctrl := { State.reset.ctrl with ownNumber := straps }
    pending := s.pending }

/-- POWER_OR_PIN_RESET (R178). -/
def execPowerOrPinReset (straps : BitVec 4) (pair : Phase) (s : State) : Host.Outcome State Fault Refusal :=
  .next (afterReset straps pair s)

/-- The reset input is asserted: emitter drivers, line drive and attention output are released (R179, R184). -/
def assertReset (s : State) : State :=
  let s := s.onSeq fun q => { q with rows := 0, cols := 0 }
  let s := s.onLine fun l => { l with tx := none, breakSend := false }
  let s := s.onRecorder fun r => { r with attention := false }
  { s with resetAsserted := true }

/-- RESET_ASSERTED (R179). -/
def execResetAsserted (s : State) : Host.Outcome State Fault Refusal := .next (assertReset s)

end Sys2Proof.Machine
end

