-- ==== Sys2Proof/Machine/Line.lean ====
section
/-! DEFINITION. The line interface (chapter 9): receiver, filter, check, contention, readback, completion, breaks. Meanings of
LOCAL_STOP, BREAK_SEND_END, BREAK_DETECTED, LINE_IDLE, HEADER_END, CHECK_SEQUENCE_END, QUIET_SPELL, CONTENTION_LOST,
READBACK_MISMATCH, READBACK_TRANSITION, TRANSMISSION_COMPLETION and FIRST_TRANSITION. -/

namespace Sys2Proof.Machine

/-- The receiver set to a state. -/
def setRx (x : Receiver) (s : State) : State := s.onLine fun l => { l with rx := x }

/-- A reception begins, under the LINE_TIMEOUT now in force (R156; 09, opening). -/
def beginReception (s : State) : State := setRx (.receiving s.ctrl.setup.lineTimeout none) s

/-! ### Breaks (R165, R166) -/

/-- A falling edge of the local stop input, in RUN: any transmission is abandoned, the station drives dominant and enters HALTED
(R166). -/
def localStopFalls (s : State) : State :=
  if s.ctrl.station = .run then
    enterHalted (abandonTx (s.onLine fun l => { l with breakSend := true }))
  else s

/-- LOCAL_STOP (R166). -/
def execLocalStop (s : State) : Host.Outcome State Fault Refusal := live localStopFalls s

/-- The station stops driving its break (R166). -/
def breakSendEnds (s : State) : State := s.onLine fun l => { l with breakSend := false }

/-- BREAK_SEND_END (R166). -/
def execBreakSendEnd (s : State) : Host.Outcome State Fault Refusal := live breakSendEnds s

/-- A break is detected: reception and transmission abandoned, a mismatch under judgement judged a break, the receiver to
IDLE_WAIT, and a station in RUN enters HALTED (R165). -/
def breakSeen (s : State) : State :=
  let s := (abandonTx (setRx .idleWait s)).onLine fun l => { l with judging := false }
  if s.ctrl.station = .run then enterHalted s else s

/-- BREAK_DETECTED (R165). -/
def execBreakDetected (s : State) : Host.Outcome State Fault Refusal := live breakSeen s

/-! ### The receiver (R156 to R159) -/

/-- In IDLE_WAIT, 11 recessive bit times: IDLE, a judgement ends with nothing recorded, and the groups are offered (R156, R161,
R163). The line is not recessive while the station drives its break (DEDUCED, unsafe, log 11). -/
def lineIdles (s : State) : State :=
  if s.line.rx = .idleWait ∧ s.line.breakSend = false then
    offer (s.onLine fun l => { l with rx := .idle, judging := false })
  else s

/-- LINE_IDLE (R156). -/
def execLineIdle (s : State) : Host.Outcome State Fault Refusal := live lineIdles s

/-- In IDLE, the first transition: RECEIVING (R156). -/
def firstTransitionSeen (s : State) : State := if s.line.rx = .idle then beginReception s else s

/-- FIRST_TRANSITION (R156). -/
def execFirstTransition (s : State) : Host.Outcome State Fault Refusal := live firstTransitionSeen s

/-- Tests 3 to 5 of the receive filter (R158). -/
def filterKeeps (c : Control) (h : Header) : Bool :=
  (h.target.toNat == c.ownNumber.toNat || h.target.toNat == Config.everyStation)
    && (match Kind.ofCode h.kind with
        | none => false
        | some k => c.station.accepts k && (decide (k ≠ .edge) || (c.setup.sideOf h.sender.toNat).isSome))

/-- A header ends in a reception: followed as readback while the station transmits it, rejected, or kept (R158). -/
def headerEnds (h : Header) (s : State) : State :=
  match s.line.rx with
  | .receiving timeout none =>
    if s.line.tx.isSome then s
    else if h.sender = s.ctrl.ownNumber then record .dupStation (setRx .idleWait s)
    else if filterKeeps s.ctrl h then setRx (.receiving timeout (some h)) s
    else setRx .idleWait s
  | .receiving _ (some _) | .idle | .idleWait => s

/-- HEADER_END (R158). -/
def execHeaderEnd (h : Header) (s : State) : Host.Outcome State Fault Refusal := live (headerEnds h) s

/-- A kept telegram ends, its payload as long as its header says: checked, and queued or discarded (R159). -/
def telegramEnds (payload : List Byte) (check : BitVec 16) (s : State) : State :=
  match s.line.rx with
  | .receiving _ (some h) =>
    if payload.length = h.length.toNat then
      let s := setRx .idleWait s
      match Kind.ofCode h.kind with
      | none => s
      | some k =>
        if checkSequence h payload ≠ check then record .rxCheck s
        else if Config.queueCapacity ≤ s.line.queue.length then record .rxOverrun s
        else s.onLine fun l => { l with queue := l.queue ++ [⟨h.sender.toNat, h.target.toNat, k, payload⟩] }
    else s
  | .receiving _ none | .idle | .idleWait => s

/-- CHECK_SEQUENCE_END (R159). -/
def execCheckSequenceEnd (payload : List Byte) (check : BitVec 16) (s : State) : Host.Outcome State Fault Refusal :=
  live (telegramEnds payload check) s

/-- A stretch with no transition is a quiet spell: recessive, LINE_TIMEOUT or more; dominant, LINE_TIMEOUT or more and less than a
break (R157). -/
def isQuietSpell (timeout : Nat) (dominant : Bool) (bits : Nat) : Bool :=
  decide (timeout ≤ bits) && (!dominant || decide (bits < Config.breakBits))

/-- A quiet spell in a reception: it is abandoned and RX_QUIET recorded; the station's own telegram has none (R157). -/
def quietSpellSeen (dominant : Bool) (bits : Nat) (s : State) : State :=
  match s.line.rx with
  | .receiving timeout _ =>
    if s.line.tx.isNone && isQuietSpell timeout dominant bits then record .rxQuiet (setRx .idleWait s) else s
  | .idle | .idleWait => s

/-- QUIET_SPELL (R157). -/
def execQuietSpell (dominant : Bool) (bits : Nat) (s : State) : Host.Outcome State Fault Refusal :=
  live (quietSpellSeen dominant bits) s

/-! ### The transmission (R162 to R164) -/

/-- Contention is lost: the station stops driving, and its receiver goes on in RECEIVING with the winner's telegram (R162;
DEDUCED, safe, log 12). -/
def contentionIsLost (s : State) : State :=
  if s.line.tx.isSome then
    abandonTx (match s.line.rx with
      | .receiving _ _ => s
      | .idle | .idleWait => beginReception s)
  else s

/-- CONTENTION_LOST (R162). -/
def execContentionLost (s : State) : Host.Outcome State Fault Refusal := live contentionIsLost s

/-- A readback mismatch: the telegram is abandoned, the receiver goes to IDLE_WAIT, and the cause is to be judged (R163). -/
def readbackMismatches (s : State) : State :=
  if s.line.tx.isSome then (abandonTx (setRx .idleWait s)).onLine fun l => { l with judging := true } else s

/-- READBACK_MISMATCH (R163). -/
def execReadbackMismatch (s : State) : Host.Outcome State Fault Refusal := live readbackMismatches s

/-- A transition while a mismatch is being judged: another station has the same number (R163). -/
def readbackTransitionSeen (s : State) : State :=
  if s.line.judging then record .dupStation (s.onLine fun l => { l with judging := false }) else s

/-- READBACK_TRANSITION (R163). -/
def execReadbackTransition (s : State) : Host.Outcome State Fault Refusal := live readbackTransitionSeen s

/-- A transmission completes: the telegram leaves its group, the receiver goes to IDLE_WAIT, and the completion is handed on: a
slot of group A is filled from the owed-telegram list, a report part is the store's unless RESTART discarded its record (R104,
R147, R164, R167). -/
def transmissionCompletes (s : State) : State :=
  match s.line.tx with
  | none => s
  | some t =>
    let sent := (s.line.group t.group).head?
    let s := setRx .idleWait (popGroup t.group (s.onLine fun l => { l with tx := none }))
    match t.group, sent with
    | .a, _ => refillA s
    | .c, some ⟨_, .report p⟩ => if t.condemned then s else reportPartDone p s
    | _, _ => s

/-- TRANSMISSION_COMPLETION (R164). -/
def execTransmissionCompletion (s : State) : Host.Outcome State Fault Refusal := live transmissionCompletes s

end Sys2Proof.Machine
end

