-- ==== Sys2Proof/Machine/Recorder.lean ====
section
/-! DEFINITION. The fault recorder's telegrams (chapter 11): CLEAR and STATUS_REQ. Recording itself stands in Ops.lean. -/

namespace Sys2Proof.Machine

/-- The set of kinds of a CLEAR names a kind (R190, R191). -/
def namesKind (p : List Byte) (k : Fin 16) : Bool := (word16At p 0).testBit k.val

/-- The named kinds cleared, and a first-error record that names one of them emptied (R186). -/
def Recorder.clear (r : Recorder) (p : List Byte) : Recorder where
  kinds := Vector.ofFn fun k => if namesKind p k then ⟨false, 0⟩ else r.kinds[k]
  firstError := r.firstError.filter fun k => !(namesKind p k.index)
  attention := r.attention

/-- A CLEAR is handled (R186). -/
def handleClear (t : Received) (s : State) : State := (s.onRecorder (·.clear t.payload)).followAttention

/-- CLEAR (R186). -/
def execClear (s : State) : Host.Outcome State Fault Refusal := live (takeOldest (Received.isKind .clear) handleClear) s

/-- The STATUS of the station as it stands (R187). -/
def statusBody (s : State) : StatusBody where
  station := s.ctrl.station
  strap := s.ctrl.ownNumber
  firstError := s.recorder.firstError
  kinds := s.recorder.kinds
  occupancy := s.store.records.length
  watchInUse := s.watch.inUse
  drainPending := s.store.drainPending
  newest := s.odo.newest
  oldest := s.store.records.head?.map (·.number)
  marks := s.ctrl.marks
  failingItem := s.ctrl.failingItem

/-- A STATUS_REQ is handled: its STATUS is queued in group A, or dropped with TX_DROPPED (R187). -/
def handleStatusReq (t : Received) (s : State) : State :=
  if s.hasRoom .a then enqueue .a ⟨t.sender, .status (statusBody s)⟩ s else record .txDropped s

/-- STATUS_REQ (R187). -/
def execStatusReq (s : State) : Host.Outcome State Fault Refusal := live (takeOldest (Received.isKind .statusReq) handleStatusReq) s

end Sys2Proof.Machine
end

