-- ==== Sys2Proof/Machine/Dispatch.lean ====
section
/-! DEFINITION. The dispatch: each command's meaning. -/

namespace Sys2Proof.Machine

/-- The effect of a command on everything but the queue of waiting commands. -/
def exec (i : Instr) (s : State) : Host.Outcome State Fault Refusal :=
  match i with
  | .powerOrPinReset straps pair => Sys2Proof.Machine.execPowerOrPinReset straps pair s
  | .phaseTransition pair => Sys2Proof.Machine.execPhaseTransition pair s
  | .localStop => Sys2Proof.Machine.execLocalStop s
  | .breakSendEnd => Sys2Proof.Machine.execBreakSendEnd s
  | .breakDetected => Sys2Proof.Machine.execBreakDetected s
  | .lineIdle => Sys2Proof.Machine.execLineIdle s
  | .headerEnd h => Sys2Proof.Machine.execHeaderEnd h s
  | .checkSequenceEnd payload check => Sys2Proof.Machine.execCheckSequenceEnd payload check s
  | .quietSpell dominant bits => Sys2Proof.Machine.execQuietSpell dominant bits s
  | .contentionLost => Sys2Proof.Machine.execContentionLost s
  | .readbackMismatch => Sys2Proof.Machine.execReadbackMismatch s
  | .readbackTransition => Sys2Proof.Machine.execReadbackTransition s
  | .transmissionCompletion => Sys2Proof.Machine.execTransmissionCompletion s
  | .setup => Sys2Proof.Machine.execSetup s
  | .start => Sys2Proof.Machine.execStart s
  | .restart => Sys2Proof.Machine.execRestart s
  | .edge => Sys2Proof.Machine.execEdge s
  | .alertRaise => Sys2Proof.Machine.execAlertRaise s
  | .alertEnd => Sys2Proof.Machine.execAlertEnd s
  | .statusReq => Sys2Proof.Machine.execStatusReq s
  | .clear => Sys2Proof.Machine.execClear s
  | .drain => Sys2Proof.Machine.execDrain s
  | .settleExpiry => Sys2Proof.Machine.execSettleExpiry s
  | .cantCompletion code => Sys2Proof.Machine.execCantCompletion code s
  | .supplyCompletion code => Sys2Proof.Machine.execSupplyCompletion code s
  | .tempCompletion code => Sys2Proof.Machine.execTempCompletion code s
  | .scanIntervalExpiry => Sys2Proof.Machine.execScanIntervalExpiry s
  | .dwellExpiry => Sys2Proof.Machine.execDwellExpiry s
  | .gapExpiry => Sys2Proof.Machine.execGapExpiry s
  | .echoRecord e => Sys2Proof.Machine.execEchoRecord e s
  | .windowTimerExpiry number => Sys2Proof.Machine.execWindowTimerExpiry number s
  | .firstTransition => Sys2Proof.Machine.execFirstTransition s
  | .resetAsserted => Sys2Proof.Machine.execResetAsserted s

end Sys2Proof.Machine
end

