-- ==== Sys2Proof/Machine/Coding.lean ====
section
/-! DEFINITION. The trolley line below its bits (R154, R162; log 28): levels, the coding of a bit in two halves, what several drivers make of
the line, the reading of a bit, what the station drives, and the stretches that are idle or a break. -/

namespace Sys2Proof.Machine

/-! ### Levels and bits (R154) -/

/-- The two levels of the line. Recessive is the level of a line that no station drives: to drive recessive is to let go of it. -/
inductive Level where
  | recessive | dominant
deriving DecidableEq, Repr

/-- The level of the line under several drivers: dominant if any of them drives dominant. -/
def wired (drivers : List Level) : Level := if drivers.contains .dominant then .dominant else .recessive

/-- A transition: any change of level, wherever in a bit time it falls. -/
def isTransition (before now : Level) : Bool := decide (before ≠ now)

/-- One bit time of the line, in its two halves. -/
structure BitTime where
  first  : Level
  second : Level
deriving DecidableEq, Repr

/-- The coding of a bit: a 0 is recessive and then dominant, a 1 dominant and then recessive. -/
def codeBit (b : Bool) : BitTime := if b then ⟨.dominant, .recessive⟩ else ⟨.recessive, .dominant⟩

/-- A bit is read from its second half: dominant is 0, recessive is 1. -/
def BitTime.bit (t : BitTime) : Bool := decide (t.second = .recessive)

/-- The bit time has a transition at its middle. -/
def BitTime.hasTransition (t : BitTime) : Bool := isTransition t.first t.second

/-- A bit time in which nothing is driven. -/
def BitTime.released : BitTime := ⟨.recessive, .recessive⟩

/-- A bit time in which dominant is driven throughout. -/
def BitTime.broken : BitTime := ⟨.dominant, .dominant⟩

/-- The bit time that several stations make together: each half is wired. -/
def wiredBit (drivers : List BitTime) : BitTime := ⟨wired (drivers.map (·.first)), wired (drivers.map (·.second))⟩

/-- The bits a receiver reads from bit times. -/
def readBits (times : List BitTime) : List Bool := times.map BitTime.bit

/-! ### What the station drives (R154, R155, R166) -/

/-- The bit times the station drives, from the first bit of what it is sending: its break, its telegram coded bit by bit, or none. -/
def Line.drives (l : Line) : List BitTime :=
  if l.breakSend then List.replicate Config.breakSendBits .broken
  else
    match l.tx with
    | some t => t.frame.bits.map codeBit
    | none => []

/-! ### Contention (R162) -/

/-- The line's bit while contenders drive: what is read of their wired next bits. -/
def contendedBit (contenders : List (List Bool)) : Bool :=
  (wiredBit (contenders.map fun c => (c.head?.map codeBit).getD .released)).bit

/-- The bits on the line while contenders send: at each bit a contender that reads back another value than it drove stops driving
at once, and the others go on. -/
def contend : Nat → List (List Bool) → List Bool
  | 0, _ => []
  | n + 1, contenders =>
    let bit := contendedBit contenders
    bit :: contend n ((contenders.filter fun c => c.head? == some bit).map List.tail)

/-! ### Stretches (R154, R157) -/

/-- The level halves of bit times, in order of time. -/
def halves (times : List BitTime) : List Level := times.flatMap fun t => [t.first, t.second]

/-- How many halves the line has stood at its present level; the halves come latest first. -/
def stretch : List Level → Nat
  | [] => 0
  | x :: rest => 1 + (rest.takeWhile fun y => !isTransition y x).length

/-- The line is idle: it has stayed recessive for 11 bit times. LINE_IDLE comes as it becomes so (R156). -/
def isIdle (latestFirst : List Level) : Bool :=
  latestFirst.head? == some .recessive && decide (2 * Config.idleBits ≤ stretch latestFirst)

/-- The line is held in a break: it has stayed dominant for 24 bit times. BREAK_DETECTED comes as it becomes so (R165). -/
def isBreak (latestFirst : List Level) : Bool :=
  latestFirst.head? == some .dominant && decide (2 * Config.breakBits ≤ stretch latestFirst)

end Sys2Proof.Machine
end

