-- ==== Sys2Proof/Safety.lean ====
section
/-! DEFINITION. What counts as a sound state of the station: the properties the spec says every state has, one predicate for each
block or group of blocks, and what it is for every step to keep one. -/

namespace Sys2Proof.Machine

/-- Every step keeps a property: whatever command stands in front, and from any state with the property. -/
def KeptByEveryStep (P : State → Prop) : Prop := ∀ s t : State, P s → step s = .next t → P t

/-! ### The line interface (R160, R161) -/

/-- The receive queue holds at most 4 telegrams, the transmit groups at most 4, 8 and 8. -/
structure LineWithinCapacity (s : State) : Prop where
  queue  : s.line.queue.length ≤ 4
  groupA : s.line.groupA.length ≤ 4
  groupB : s.line.groupB.length ≤ 8
  groupC : s.line.groupC.length ≤ 8

/-! ### The fault recorder (R181, R183, R184) -/

/-- Counts stay within 0..65535, the first-error record names a kind that is seen, and the attention output is asserted exactly
while the record is occupied or the station is in FAULT, and reset is not asserted. -/
structure RecorderSound (s : State) : Prop where
  counts    : ∀ k : Fin 16, s.recorder.kinds[k].count ≤ 65535
  firstSeen : ∀ k : ErrKind, s.recorder.firstError = some k → s.recorder.kinds[k.index].seen = true
  attention : s.recorder.attention = (!s.resetAsserted && (s.recorder.firstError.isSome || decide (s.ctrl.station = .fault)))

/-! ### The odometry unit (R4, R6, R7, R14) -/

/-- The station has left CONFIG and is not in FAULT: it is in RUN or HALTED. -/
def Station.surveys (x : Station) : Bool := decide (x = .run) || decide (x = .halted)

/-- P stays within its limits; base and T_next are present exactly in RUN and HALTED, where a SPACING is stored, and then P is
below T_next; the next section number is at most 16,777,215. -/
structure OdometrySound (s : State) : Prop where
  low       : -2147483648 ≤ s.odo.pos
  high      : s.odo.pos ≤ 2147483647
  base      : s.odo.base.isSome = s.ctrl.station.surveys
  threshold : s.odo.nextThreshold.isSome = s.ctrl.station.surveys
  below     : ∀ v : Int, s.odo.nextThreshold = some v → s.odo.pos < v
  spacing   : s.ctrl.station.surveys = true → ∃ v : Survey, s.ctrl.setup.survey = some v
  positive  : ∀ v : Survey, s.ctrl.setup.survey = some v → 1 ≤ v.spacing
  number    : s.odo.nextSection ≤ 16777215

/-! ### The stored setup (R171, R172) -/

/-- The ranges of item 1 SURVEY. -/
def Survey.inRange (v : Survey) : Prop :=
  1 ≤ v.spacing ∧ v.spacing ≤ 65535 ∧ v.tofMin ≤ 65535 ∧ 360000 ≤ v.ks ∧ v.ks ≤ 400000 ∧ 100 ≤ v.dMin ∧ v.dMin ≤ 20000
    ∧ 10000 ≤ v.dMax ∧ v.dMax ≤ 300000

/-- The ranges of item 2 HEAD. -/
def Head.inRange (h : Head) : Prop :=
  h.mount ≤ 65535 ∧ (-100000 ≤ h.hx ∧ h.hx ≤ 100000) ∧ (-100000 ≤ h.hy ∧ h.hy ≤ 100000)
    ∧ (-100000 ≤ h.gx ∧ h.gx ≤ 100000) ∧ (-100000 ≤ h.gy ∧ h.gy ≤ 100000)

/-- The ranges of an element of an item CALIB. -/
def ElementCalib.inRange (x : ElementCalib) : Prop := x.angle ≤ 65535 ∧ -5000 ≤ x.offset ∧ x.offset ≤ 5000

/-- The ranges of item 11 SWEEP. -/
def SweepItem.inRange (w : SweepItem) : Prop :=
  (1 ≤ w.dwellShort ∧ w.dwellShort ≤ 255) ∧ (1 ≤ w.dwellLong ∧ w.dwellLong ≤ 255) ∧ (1 ≤ w.gap ∧ w.gap ≤ 255)
    ∧ w.ampLo ≤ 255 ∧ 1 ≤ w.weakLimit ∧ w.weakLimit ≤ 15

/-- Both ends of a range of bins are bins. -/
def BinRange.inRange (z : BinRange) : Prop := z.lo ≤ 1023 ∧ z.hi ≤ 1023

/-- The ranges of item 12 ZONES; the window's depends on its basis. -/
def Zones.inRange (z : Zones) : Prop :=
  (∀ n ∈ z.left, n ≤ 15) ∧ (∀ n ∈ z.right, n ≤ 15) ∧ z.leftZone.inRange ∧ z.rightZone.inRange ∧ z.coverage.inRange
    ∧ 1 ≤ z.window ∧ (z.basis = .sections → z.window ≤ 32) ∧ z.window ≤ 1000

/-- The ranges of an item ENVELOPE. -/
def Segment.inRange (g : Segment) : Prop :=
  g.b0 ≤ g.b1 ∧ g.b1 ≤ 1023 ∧ (10000 ≤ g.rs ∧ g.rs ≤ 300000) ∧ (10000 ≤ g.re ∧ g.re ≤ 300000)

/-- The ranges of an item EXCLUSION. -/
def Exclusion.inRange (w : Exclusion) : Prop := w.start ≤ 65535 ∧ w.stop ≤ 65535

/-- The ranges of item 29 WATCH. -/
def WatchItem.inRange (w : WatchItem) : Prop :=
  (1 ≤ w.confirm ∧ w.confirm ≤ 8) ∧ (1 ≤ w.clearCount ∧ w.clearCount ≤ 8) ∧ w.hyst ≤ 2000 ∧ w.warn ≤ 5000
    ∧ (1 ≤ w.peerAge ∧ w.peerAge ≤ 255) ∧ w.guard ≤ 16

/-- The ranges of item 30 AUX. -/
def Aux.inRange (a : Aux) : Prop :=
  a.cantZero ≤ 4095 ∧ (-4096 ≤ a.cantGain ∧ a.cantGain ≤ 4096) ∧ a.cantLim ≤ 2731 ∧ a.supLo ≤ 4095 ∧ a.supHyst ≤ 4095
    ∧ a.tempHi ≤ 4095 ∧ a.tempHyst ≤ 4095 ∧ (1 ≤ a.cantSettle ∧ a.cantSettle ≤ 63) ∧ (1 ≤ a.supSettle ∧ a.supSettle ≤ 63)
    ∧ (1 ≤ a.tempSettle ∧ a.tempSettle ≤ 63) ∧ 1 ≤ a.scanPeriod ∧ a.scanPeriod ≤ 255

/-- The ranges of item 31 LINE. -/
def LineItem.inRange (l : LineItem) : Prop := (8 ≤ l.timeout ∧ l.timeout ≤ 255) ∧ l.orderCode ≤ 7

/-- Every stored field lies in its range. -/
structure SetupInRange (u : Setup) : Prop where
  survey    : ∀ v ∈ u.survey, v.inRange
  head      : ∀ v ∈ u.head, v.inRange
  calib     : ∀ k : Fin 8, ∀ v ∈ u.calib[k], ∀ j : Fin 8, v[j].inRange
  sweep     : ∀ v ∈ u.sweep, v.inRange
  zones     : ∀ v ∈ u.zones, v.inRange
  envelope  : ∀ j : Fin 12, ∀ v ∈ u.envelope[j], v.inRange
  exclusion : ∀ w : Fin 4, ∀ v ∈ u.exclusion[w], v.inRange
  watch     : ∀ v ∈ u.watch, v.inRange
  aux       : ∀ v ∈ u.aux, v.inRange
  line      : ∀ v ∈ u.line, v.inRange

/-- An item is stored (R171). -/
def Setup.holds (u : Setup) (item : Nat) : Bool :=
  if item = 1 then u.survey.isSome
  else if item = 2 then u.head.isSome
  else if h : 3 ≤ item ∧ item < 11 then (u.calib[item - 3]'(by omega)).isSome
  else if item = 11 then u.sweep.isSome
  else if item = 12 then u.zones.isSome
  else if h : 13 ≤ item ∧ item < 25 then (u.envelope[item - 13]'(by omega)).isSome
  else if h : 25 ≤ item ∧ item < 29 then (u.exclusion[item - 25]'(by omega)).isSome
  else if item = 29 then u.watch.isSome
  else if item = 30 then u.aux.isSome
  else if item = 31 then u.line.isSome
  else if item = 32 then u.faults.isSome
  else false

/-- The setup is sound: every stored field in its range, and the setup-received bitmap marks exactly the stored items. -/
structure SetupSound (s : State) : Prop where
  ranges : SetupInRange s.ctrl.setup
  marks  : ∀ k : Nat, k < 32 → s.ctrl.marks.getLsbD k = s.ctrl.setup.holds (k + 1)

/-! ### The section in flight (R33, R38 to R42, R61) -/

/-- Nothing is driven and no group is open. -/
def State.quiet (s : State) : Prop := s.seq.rows = 0 ∧ s.seq.cols = 0 ∧ s.echo.acceptance = none

/-- The sweep has not begun: no group list, no fixed properties, no geometry. -/
def State.unswept (s : State) : Prop := s.seq.groups = [] ∧ s.seq.fixed = none ∧ s.echo.geometry = none

/-- The drivers, the acceptance and the properties of the sweep agree with the sweep state: a group is driven, and its acceptance
open, only in DWELL on it, and no group while reset is asserted. -/
def InFlightSound (s : State) : Prop :=
  match s.seq.sweep with
  | .idle => s.quiet ∧ s.unswept
  | .waiting => s.quiet ∧ s.unswept
  | .dwell k => ∃ g, s.seq.groups[k]? = some g ∧ s.echo.acceptance.isSome = true
      ∧ s.seq.rows = (if s.resetAsserted then 0 else g.rows) ∧ s.seq.cols = (if s.resetAsserted then 0 else g.cols)
      ∧ s.seq.fixed.isSome = true ∧ s.echo.geometry.isSome = true
  | .gap k => k < s.seq.groups.length ∧ s.quiet ∧ s.seq.fixed.isSome = true ∧ s.echo.geometry.isSome = true

/-! ### The section store (R78, R92, R94, R100, R101, R105, R106) -/

/-- How many section numbers have been triggered since the last entry into RUN from CONFIG (R7, R8). -/
def Odometry.triggered (o : Odometry) : Nat := if o.limitMark then 16777216 else o.nextSection

/-- Every section number between two neighbouring records is counted in the later one's gap-before count, and every number after
the newest record is counted in the accumulator (R94). -/
def gapsAccounted (count triggered : Nat) : List SectionRecord → Prop
  | [] => count ≤ triggered
  | [r] => r.number + 1 + count = triggered
  | r :: q :: rest => r.number + 1 + q.summary.gapBefore = q.number ∧ gapsAccounted count triggered (q :: rest)

/-- The section store is sound. -/
structure StoreSound (s : State) : Prop where
  capacity : s.store.records.length ≤ 8
  ascending : s.store.records.Pairwise fun r q => r.number < q.number
  gaps : gapsAccounted s.store.gapCount s.odo.triggered s.store.records
  firstGap : ∀ r ∈ s.store.records.head?, r.summary.gapBefore ≤ r.number
  /-- One record is SWEEPING exactly while a section is in flight. -/
  inFlight : (s.store.records.filter fun r => decide (r.state = .sweeping)).length = if s.seq.sweep = .idle then 0 else 1
  /-- The SWEEPING record is the newest. -/
  newest : ∀ r ∈ s.store.records.dropLast, r.state ≠ .sweeping
  /-- The SENDING record is the oldest. -/
  oldest : ∀ r ∈ s.store.records.tail, r.state ≠ .sending
  /-- A READY record that is the oldest reports at once. -/
  reports : ∀ r ∈ s.store.records.head?, r.state ≠ .ready
  /-- A HELD record waits for a neighbour's edge. -/
  held : ∀ r ∈ s.store.records, r.state = .held → r.awaits = true
  /-- A section is in flight only in RUN. -/
  run : s.seq.sweep ≠ .idle → s.ctrl.station = .run
  halted : s.ctrl.station = .halted → ∀ r ∈ s.store.records, r.state ≠ .held
  empty : s.ctrl.station.surveys = false → s.store.records = []
  /-- In CONFIG the gap accumulator is empty (R109). -/
  config : s.ctrl.station = .config → s.store.gapCount = 0
  /-- A drain is pending exactly while a record carries the drain mark. -/
  pendingDrain : s.store.drainPending = s.store.records.any fun r => r.summary.drainMark
  target : s.store.drainTarget.isSome = s.store.drainPending
  requester : s.store.drainRequester.isSome = s.store.drainPending
  /-- Every bin list is in strictly ascending bin number (R78). -/
  bins : ∀ r ∈ s.store.records, r.bins.Pairwise fun b c => b.bin < c.bin

/-! ### FAULT (R177) -/

/-- In FAULT the station holds no section, no watch record, no telegram of groups B and C, and no threshold. -/
structure FaultHoldsNothing (s : State) : Prop where
  records    : s.ctrl.station = .fault → s.store.records = []
  drain      : s.ctrl.station = .fault → s.store.drainPending = false
  sweep      : s.ctrl.station = .fault → s.seq.sweep = .idle
  groupB     : s.ctrl.station = .fault → s.line.groupB = []
  groupC     : s.ctrl.station = .fault → s.line.groupC = []
  watch      : s.ctrl.station = .fault → s.watch = Watch.cleared
  base       : s.ctrl.station = .fault → s.odo.base = none
  threshold  : s.ctrl.station = .fault → s.odo.nextThreshold = none
  sending    : s.ctrl.station = .fault → ∀ t ∈ s.line.tx, t.group = .a

/-! ### Emission (R35, R36, R40) -/

/-- A section is in flight only in RUN; every member of a group of its sweep is an element to be fired, enabled and with its beam
angle for that sweep in no exclusion window; and outside DWELL, and while no section is in flight, no driver is driven. -/
structure EmissionSound (s : State) : Prop where
  run      : s.seq.sweep ≠ .idle → s.ctrl.station = .run
  fired    : ∀ g ∈ s.seq.groups, ∀ e ∈ g.members, ∃ (h : Head) (w : SweepFixed) (table : Vector Element 64) (k : Fin 64),
    s.ctrl.setup.head = some h ∧ s.seq.fixed = some w ∧ s.seq.table = some table ∧ k.val = e
      ∧ table[k].enabled = true ∧ s.ctrl.setup.excludes (beamAngle h w.cant table[k]) = false
  idle     : s.seq.sweep = .idle → s.seq.groups = []
  released : (∀ k : Nat, s.seq.sweep ≠ .dwell k) → s.seq.rows = 0 ∧ s.seq.cols = 0

/-- A driver crossing drives an element: its row and its column are both driven (R33). -/
def Sequencer.drives (q : Sequencer) (e : Fin 64) : Bool := q.rows.getLsbD (e.val / 8) && q.cols.getLsbD (e.val % 8)

/-! ### The watch unit (R133, R144, R147 to R149) -/

/-- The telegram is an ALERT RAISE. -/
def Telegram.isRaise (t : Telegram) : Bool :=
  match t.body with
  | .alert a => !a.isEnd
  | _ => false

/-- The telegram is an ALERT END. -/
def Telegram.isEnd (t : Telegram) : Bool :=
  match t.body with
  | .alert a => a.isEnd
  | _ => false

/-- A live local record that has been announced: it carries an id, and its RAISE is not owed. -/
def LocalRecord.announced (r : LocalRecord) : Bool := r.id.isSome && !r.owed

/-- The owed-telegram list: only while group A is full, ALERT and DRAINED telegrams alone, at most 8 of them DRAINED, and at most 40
telegrams in all. -/
structure OwedSound (s : State) : Prop where
  full    : s.watch.owed ≠ [] → 4 ≤ s.line.groupA.length
  kinds   : ∀ t ∈ s.watch.owed, t.isRaise = true ∨ t.isEnd = true ∨ t.isDrained = true
  drained : (s.watch.owed.filter Telegram.isDrained).length ≤ 8
  limit   : s.watch.owed.length ≤ 40

/-- The watch table: at most 16 records; local records in ascending order with spans that never come near one another, so that none
overlaps; distinct ids; an id exactly where a record is not PENDING; and the owed RAISEs are those of the records whose owed field is
RAISE, one for each. -/
structure WatchSound (s : State) : Prop where
  capacity : s.watch.locals.length + s.watch.peers.length ≤ 16
  spans    : ∀ r ∈ s.watch.locals, r.first ≤ r.last
  apart    : s.watch.locals.Pairwise fun r q => r.last + 3 ≤ q.first
  ids      : s.watch.locals.Pairwise fun r q => ∀ i : Nat, r.id = some i → q.id ≠ some i
  pending  : ∀ r ∈ s.watch.locals, r.id = none ↔ r.state = .pending
  raises   : ∀ r ∈ s.watch.locals, ∀ i : Nat, r.id = some i →
    (s.watch.owed.filter fun t => t.isRaiseOf i).length = if r.owed then 1 else 0
  owners   : ∀ t ∈ s.watch.owed, ∀ i : Nat, t.isRaiseOf i = true → ∃ r ∈ s.watch.locals, r.id = some i
  silent   : ∀ r ∈ s.watch.locals, r.id = none → r.owed = false
  /-- Why at most 16 ENDs are owed: when a telegram became owed, the records of the RAISEs owed up to it, of the ENDs owed from it on,
  and of the announced records were all alive together (R148). -/
  alive    : ∀ (before after : List Telegram) (t : Telegram), s.watch.owed = before ++ t :: after →
    (before.filter Telegram.isRaise).length + (if t.isRaise then 1 else 0) + ((t :: after).filter Telegram.isEnd).length
      + (s.watch.locals.filter LocalRecord.announced).length ≤ 16

/-- Every bin list is in strictly ascending bin number (R78): what the spans of a section are formed from. -/
def BinsAscend (s : State) : Prop := ∀ r ∈ s.store.records, r.bins.Pairwise fun b c => b.bin < c.bin

/-- How many members the groups of the sweep whose dwells have ended hold together (R41). -/
def Sequencer.closedMembers (q : Sequencer) : Nat :=
  let membersOf := fun groups : List FiringGroup => (groups.map fun g => g.members.length).sum
  match q.sweep with
  | .idle | .waiting => 0
  | .dwell k => membersOf (q.groups.take k)
  | .gap k => membersOf (q.groups.take (k + 1))

/-- No bin list outgrows what its sweep can put into it: 128 records for a record whose sweep is over, and two for each element fired so
far for the SWEEPING one (R78); for a sweep fires at most 64 elements, and each holds at most two echoes (R53). -/
structure BinsBounded (s : State) : Prop where
  swept    : ∀ r ∈ s.store.records, r.state ≠ .sweeping → r.bins.length ≤ 128
  sweeping : ∀ r ∈ s.store.records, r.state = .sweeping → r.bins.length ≤ 2 * s.seq.closedMembers
  members  : (s.seq.groups.map fun g => g.members.length).sum ≤ 64
  /-- The open acceptance has the members of the group in DWELL, in their order (R40, R55). -/
  opened   : ∀ ms ∈ s.echo.acceptance, ∀ (k : Nat) (g : FiringGroup), s.seq.sweep = .dwell k → s.seq.groups[k]? = some g →
    ms.map (·.element) = g.members
  held     : ∀ ms ∈ s.echo.acceptance, ∀ m ∈ ms, m.held.length ≤ 2

/-! ### What the statements speak of -/

/-- The state with the rest of the receive queue: the handler has taken the telegram at its front. -/
def State.withQueue (rest : List Received) (s : State) : State := { s with line := { s.line with queue := rest } }

/-- An occurrence of a kind enters FAULT: the kind is FATAL and unmasked (R182). -/
def Setup.fatal (u : Setup) (k : ErrKind) : Prop := (u.policy k).severity = .fatal ∧ (u.policy k).masked = false

/-- The moves of the station state that R170 lists: which command may lead from one state to another. Any command that records a
FATAL kind may lead to FAULT. -/
def Station.mayMove (c : Instr) (x y : Station) : Prop :=
  match x, y with
  | .config, .config | .run, .run | .halted, .halted | .fault, .fault => True
  | .config, .run => c = .start
  | .halted, .run => c = .start
  | .run, .halted => c = .breakDetected ∨ c = .localStop
  | .config, .fault | .run, .fault | .halted, .fault => True
  | .run, .config | .halted, .config | .fault, .config => c = .restart ∨ ∃ straps pair, c = .powerOrPinReset straps pair
  | .config, .halted | .fault, .run | .fault, .halted => False

/-- A sampled pair is a counted forward step that makes P equal to T_next, in RUN or HALTED (R7). -/
structure Crossing (s : State) (pair : Phase) (v : Survey) : Prop where
  live     : s.resetAsserted = false
  surveys  : s.ctrl.station.surveys = true
  legal    : s.odo.phase.a = pair.a ↔ s.odo.phase.b ≠ pair.b
  counted  : countedStep s.ctrl.setup.countMode s.odo.phase pair = true
  forward  : forwardStep s.odo.phase pair = true
  room     : s.odo.pos < 2147483647
  meets    : s.odo.nextThreshold = some (s.odo.pos + 1)
  survey   : s.ctrl.setup.survey = some v

/-- The state in which a crossing's trigger is handled: P stepped, and the trigger counted towards the stitch windows (R97; the
order is DEDUCED, log 8). -/
def State.atCrossing (s : State) : State := countWindows { s with odo := { s.odo with pos := s.odo.pos + 1 } }

/-- The odometry unit after a crossing that triggers a section (R7). -/
def Odometry.crossed (o : Odometry) (pair : Phase) (v : Survey) : Odometry :=
  { o with phase := pair, pos := o.pos + 1, nextThreshold := some (o.pos + 1 + (v.spacing : Int)), nextSection := o.nextSection + 1 }

/-- A record as R93 creates it. -/
def openedRecord (u : Setup) (number gapBefore : Nat) (reasons : GapReasons) : SectionRecord where
  number := number
  state := .sweeping
  bins := []
  summary := { sweep := none, valid := 0, near := 0, far := 0, foreign := 0, suspectDropped := 0, cededCount := 0,
               gapBefore := gapBefore, gapReasons := reasons, drainMark := false }
  leftSide := if (u.neighbour .left).isSome then .awaited else .none
  rightSide := if (u.neighbour .right).isSome then .awaited else .none
  leftEdge := none
  rightEdge := none
  windowCount := 0
  windowTimer := false
  partsQueued := 0

/-- The gap after the last group of a sweep is about to end in RUN, in a section alone in the store; the receiver is not in IDLE, so that
what enters a group waits there. -/
structure Completing (s : State) (k : Nat) (r : SectionRecord) : Prop where
  live     : s.resetAsserted = false
  gap      : s.seq.sweep = .gap k
  last     : s.seq.groups.length ≤ k + 1
  run      : s.ctrl.station = .run
  alone    : s.store.records = [r]
  sweeping : r.state = .sweeping
  waits    : s.line.rx ≠ .idle

/-- The GAP EDGEs of a section skipped in RUN: the left neighbour's, then the right neighbour's (R12, R116). -/
def gapEdges (u : Setup) (number : Nat) : List Telegram :=
  ((u.neighbour .left).toList ++ (u.neighbour .right).toList).map fun nb =>
    ⟨nb, .edge { number := number, side := .both, gap := true, entries := [] }⟩

end Sys2Proof.Machine
end

