-- ==== Sys2Proof/Certificates/Slice0/Obligations.lean ====
section
/-! DEFINITION. The statements for the provers, `Obligations.<Name>`, chapter by chapter. Where a statement rests on a choice of the
model and not on a rule of the spec, its docstring says so and names the log entry. -/

open Sys2Proof Sys2Proof.Machine

/-! ### The machine -/

/-- A step takes the command at the front of the queue and executes it on the state with the queue's rest; on an empty queue the
block idles. The queue and its idling are the model's own (log 1). -/
def Obligations.StepRunsFrontCommand : Prop :=
  (∀ (c : Instr) (s : State), step { s with pending := c :: s.pending } = exec c s)
    ∧ ∀ s : State, s.pending = [] → step s = .next s

/-- Every command answers a next state in every state, with the queue of waiting commands as it was: no command stops, for the spec
gives each an effect. That a command which cannot arise leaves the state as it is, is the model's choice (log 2). -/
def Obligations.EveryCommandCompletes : Prop :=
  ∀ (c : Instr) (s : State), ∃ t : State, exec c s = .next t ∧ t.pending = s.pending

/-- POWER_OR_PIN_RESET leaves every block in its reset state, with the straps and the phase pair sampled as reset ends, and every
property of a sound station holds then (R1, R15, R29, R48, R68, R76, R109, R151, R167, R178, R179, R188). That the model's queue stays
is log 1. -/
def Obligations.PowerOnState : Prop :=
  ∀ (straps : BitVec 4) (pair : Phase) (s : State),
    let t : State :=
      { odo := { phase := pair, pos := 0, base := none, nextThreshold := none, nextSection := 0, limitMark := false }
        conv := { scan := .idle, work := none, cant := 0, supplyWeak := false, overTemp := false, intervalRunning := false }
        seq := { table := none, groups := [], sweep := .idle, fixed := none, rows := 0, cols := 0 }
        echo := { acceptance := none, geometry := none }
        env := List.replicate 1024 none
        store := { records := [], gapCount := 0, gapReasons := ⟨false, false, false, false⟩, drainPending := false,
                   drainTarget := none, drainRequester := none }
        watch := { locals := [], peers := [], idCounter := 0, owed := [] }
        line := { rx := .idleWait, queue := [], groupA := [], groupB := [], groupC := [], tx := none, breakSend := false,
                  judging := false }
        ctrl := { station := .config, ownNumber := straps, marks := 0, failingItem := none
                  setup := { survey := none, head := none, calib := Vector.replicate 8 none, sweep := none, zones := none
                             envelope := Vector.replicate 12 none, exclusion := Vector.replicate 4 none, watch := none
                             aux := none, line := none, faults := none } }
        recorder := { kinds := Vector.replicate 16 ⟨false, 0⟩, firstError := none, attention := false }
        resetAsserted := false
        pending := s.pending }
    exec (.powerOrPinReset straps pair) s = .next t
      ∧ LineWithinCapacity t ∧ RecorderSound t ∧ OdometrySound t ∧ SetupSound t ∧ StoreSound t ∧ FaultHoldsNothing t
      ∧ EmissionSound t ∧ InFlightSound t ∧ OwedSound t ∧ WatchSound t ∧ BinsAscend t ∧ BinsBounded t

/-- Every property of a sound station holds in the model's state right after reset, and RESET_ASSERTED releases the emitter drivers, the
line drive and the attention output, and changes nothing else (R179, R184). That every other command but the end of reset then leaves
the station as it is, is the model's choice (log 6). -/
def Obligations.ResetReleasesAndIsSound : Prop :=
  (LineWithinCapacity State.reset ∧ RecorderSound State.reset ∧ OdometrySound State.reset ∧ SetupSound State.reset
    ∧ StoreSound State.reset ∧ FaultHoldsNothing State.reset ∧ EmissionSound State.reset ∧ InFlightSound State.reset
    ∧ OwedSound State.reset ∧ WatchSound State.reset ∧ BinsAscend State.reset ∧ BinsBounded State.reset)
    ∧ (∀ s : State, exec .resetAsserted s = .next { s with
      seq := { s.seq with rows := 0, cols := 0 }
      line := { s.line with tx := none, breakSend := false }
      recorder := { s.recorder with attention := false }
      resetAsserted := true })
    ∧ ∀ (c : Instr) (s : State), s.resetAsserted = true → c ≠ .resetAsserted →
        (∀ (straps : BitVec 4) (pair : Phase), c ≠ .powerOrPinReset straps pair) → exec c s = .next s

/-- The station state moves only as R170 lists, whatever the command and the state; and it enters FAULT only where a kind that is
FATAL and unmasked is then seen. -/
def Obligations.StationMovesAsListed : Prop :=
  ∀ (c : Instr) (s t : State), exec c s = .next t →
    Station.mayMove c s.ctrl.station t.ctrl.station
      ∧ (s.ctrl.station ≠ .fault → t.ctrl.station = .fault →
          ∃ k : ErrKind, s.ctrl.setup.fatal k ∧ t.recorder.kinds[k.index].seen = true)

/-- Outside CONFIG the stored setup, the setup-received bitmap, the failing item and the envelope table are frozen, and in every
state the own number is held, until power or pin reset (R76, R112, R171, R174, R179). -/
def Obligations.SetupFrozenOutsideConfig : Prop :=
  ∀ (c : Instr) (s t : State), (∀ (straps : BitVec 4) (pair : Phase), c ≠ .powerOrPinReset straps pair) → exec c s = .next t →
    t.ctrl.ownNumber = s.ctrl.ownNumber
      ∧ (s.ctrl.station ≠ .config → t.ctrl.setup = s.ctrl.setup ∧ t.ctrl.marks = s.ctrl.marks
          ∧ t.ctrl.failingItem = s.ctrl.failingItem ∧ t.env = s.env)

/-! ### The odometry unit (chapter 1) -/

/-- Each of the eight legal transitions of R2 moves P one step in its direction when the count mode counts it, within the limits of
R4, and the phase state takes the new pair; a counted step that crosses no threshold, and an uncounted one, change nothing else. -/
def Obligations.LegalTransitionsCounted : Prop :=
  ∀ (old new : Phase) (forward x1 x2 : Bool) (s : State),
    (old, new, forward, x1, x2) ∈
      ([(⟨false, false⟩, ⟨true, false⟩, true, true, true), (⟨true, false⟩, ⟨true, true⟩, true, false, false),
        (⟨true, true⟩, ⟨false, true⟩, true, false, true), (⟨false, true⟩, ⟨false, false⟩, true, false, false),
        (⟨false, false⟩, ⟨false, true⟩, false, false, false), (⟨false, true⟩, ⟨true, true⟩, false, false, true),
        (⟨true, true⟩, ⟨true, false⟩, false, false, false), (⟨true, false⟩, ⟨false, false⟩, false, true, true)]
        : List (Phase × Phase × Bool × Bool × Bool)) →
    s.resetAsserted = false → s.odo.phase = old → -2147483648 ≤ s.odo.pos → s.odo.pos ≤ 2147483647 →
    let counted : Bool := match s.ctrl.setup.countMode with
      | .x1 => x1
      | .x2 => x2
      | .x4 => true
    let wanted : Int := if counted then (if forward then s.odo.pos + 1 else s.odo.pos - 1) else s.odo.pos
    ∃ t : State, exec (.phaseTransition new) s = .next t ∧ t.odo.phase = new
      ∧ t.odo.pos = max (-2147483648) (min wanted 2147483647)
      ∧ (-2147483648 ≤ wanted → wanted ≤ 2147483647 →
          (forward = true → counted = true → s.ctrl.station.surveys = true → s.odo.nextThreshold ≠ some wanted) →
          t = { s with odo := { s.odo with phase := new, pos := wanted } })

/-- A transition of both phases, and a counted step past either limit of P, leave P where it is and record ODOMETER; a sample equal
to the phase state changes nothing (R1, R3, R4). -/
def Obligations.RefusedTransitions : Prop :=
  ∀ (pair : Phase) (s : State), s.resetAsserted = false →
    (pair = s.odo.phase → exec (.phaseTransition pair) s = .next s)
      ∧ (((pair.a ≠ s.odo.phase.a ∧ pair.b ≠ s.odo.phase.b)
            ∨ ((pair.a ≠ s.odo.phase.a ↔ pair.b = s.odo.phase.b)
                ∧ countedStep s.ctrl.setup.countMode s.odo.phase pair = true
                ∧ ((forwardStep s.odo.phase pair = true ∧ s.odo.pos = 2147483647)
                    ∨ (forwardStep s.odo.phase pair = false ∧ s.odo.pos = -2147483648)))) →
          exec (.phaseTransition pair) s = .next
            { record .odometer s with odo := { (record .odometer s).odo with phase := pair } }
          ∧ (record .odometer s).odo.pos = s.odo.pos)

/-- A crossing in RUN that none of the first four trigger tests stops starts the section: a SWEEPING record takes the gap
accumulator, a section scan begins with CANT, the sweep is WAITING, and T_next and the next number move on (R7, R9, R10, R19, R38,
R93). That the trigger counts towards the windows before it is handled is log 8. -/
def Obligations.CrossingStartsSection : Prop :=
  ∀ (pair : Phase) (v : Survey) (a : Aux) (s : State), Crossing s pair v →
    s.ctrl.station = .run → s.odo.limitMark = false → s.odo.nextSection < 16777215 → s.conv.overTemp = false →
    (∀ r ∈ s.store.records, r.state ≠ .sweeping) → s.store.records.length < 8 → s.ctrl.setup.aux = some a →
    exec (.phaseTransition pair) s = .next
      { s.atCrossing with
        odo := s.odo.crossed pair v
        conv := { s.conv with scan := .sectionScan, work := some ⟨.cant, .settling a.cantSettle⟩ }
        seq := { s.seq with sweep := .waiting }
        store := { s.atCrossing.store with
          records := s.atCrossing.store.records
            ++ [openedRecord s.ctrl.setup s.odo.nextSection s.store.gapCount s.store.gapReasons]
          gapCount := 0
          gapReasons := ⟨false, false, false, false⟩ } }

/-- A crossing that one of the first four trigger tests stops skips the section: the reason of the first test that holds joins the
gap accumulator, its kind is recorded, and in RUN one GAP EDGE is queued for each neighbour, the left one's first; one that finds group B full
is dropped and records TX_DROPPED (R7, R9, R11, R12, R116). The order with the windows is log 8. -/
def Obligations.CrossingSkipsSection : Prop :=
  ∀ (pair : Phase) (v : Survey) (reason : GapReasons) (kind : Option ErrKind) (s : State), Crossing s pair v →
    s.odo.limitMark = false → s.odo.nextSection < 16777215 →
    ((s.ctrl.station = .halted ∧ reason = ⟨true, false, false, false⟩ ∧ kind = none)
      ∨ (s.ctrl.station = .run ∧ s.conv.overTemp = true ∧ reason = ⟨false, true, false, false⟩ ∧ kind = none)
      ∨ (s.ctrl.station = .run ∧ s.conv.overTemp = false ∧ (∃ r ∈ s.store.records, r.state = .sweeping)
          ∧ reason = ⟨false, false, true, false⟩ ∧ kind = some .sweepBusy)
      ∨ (s.ctrl.station = .run ∧ s.conv.overTemp = false ∧ (∀ r ∈ s.store.records, r.state ≠ .sweeping)
          ∧ 8 ≤ s.store.records.length ∧ reason = ⟨false, false, false, true⟩ ∧ kind = some .storeFull)) →
    (∀ k ∈ kind, ¬ s.ctrl.setup.fatal k) →
    let edges : List Telegram := if s.ctrl.station = .run then gapEdges s.ctrl.setup s.odo.nextSection else []
    let sent := edges.take (8 - s.line.groupB.length)
    (sent.length < edges.length → ¬ s.ctrl.setup.fatal .txDropped) →
    let told : State := kind.elim s.atCrossing fun k => record k s.atCrossing
    let skipped : State := { told with store := { told.store with
      gapCount := s.store.gapCount + 1
      gapReasons := ⟨s.store.gapReasons.halt || reason.halt, s.store.gapReasons.hot || reason.hot,
        s.store.gapReasons.busy || reason.busy, s.store.gapReasons.storeFull || reason.storeFull⟩ } }
    exec (.phaseTransition pair) s = .next
      { (record .txDropped)^[edges.length - sent.length] (sent.foldl (fun x e => enqueue .b e x) skipped) with
        odo := s.odo.crossed pair v }

/-- A crossing with the limit mark set advances T_next and counts towards the windows, and issues no trigger; the crossing of section
16,777,215 sets the limit mark, records ODOMETER, and leaves the next number there (R7, R8, R97). The order of the two effects of
that last trigger is log 9. -/
def Obligations.CrossingAtNumberLimit : Prop :=
  ∀ (pair : Phase) (v : Survey) (s : State), Crossing s pair v →
    (s.odo.limitMark = true →
      exec (.phaseTransition pair) s = .next { s.atCrossing with odo := { s.odo with
        phase := pair, pos := s.odo.pos + 1, nextThreshold := some (s.odo.pos + 1 + (v.spacing : Int)) } })
    ∧ (s.odo.limitMark = false → s.odo.nextSection = 16777215 →
      ∃ t : State, exec (.phaseTransition pair) s = .next t ∧ t.odo.limitMark = true ∧ t.odo.nextSection = 16777215
        ∧ t.recorder.kinds[ErrKind.odometer.index].seen = true
        ∧ (t.ctrl.station ≠ .fault → t.odo.nextThreshold = some (s.odo.pos + 1 + (v.spacing : Int))))

/-- START in CONFIG with its checks passed enters RUN: the failing item absent, the envelope and the element table made anew from the
setup, the watch unit cleared, the base taken, and section 0 triggered: started, or under OVER_TEMP skipped as HOT with its GAP EDGEs
(R6, R9, R31, R75, R151, R173, R175). -/
def Obligations.StartFromConfig : Prop :=
  (∀ (x : Received) (rest : List Received) (v : Survey) (a : Aux) (s : State),
    s.resetAsserted = false → s.line.queue = x :: rest → x.kind = .start → x.payload = [] → s.ctrl.station = .config →
    (∀ item : Nat, 1 ≤ item → item ≤ 32 → itemFails s.ctrl.ownNumber.toNat s.ctrl.setup item = false) →
    s.ctrl.setup.survey = some v → s.ctrl.setup.aux = some a → s.store.records = [] →
    let entered : State := { s.withQueue rest with
      ctrl := { s.ctrl with station := .run, failingItem := none }
      env := expandEnvelope s.ctrl.setup.envelope.toList
      watch := { locals := [], peers := [], idCounter := 0, owed := [] }
      odo := { s.odo with base := some s.odo.pos, nextThreshold := some (s.odo.pos + (v.spacing : Int)), nextSection := 1,
                          limitMark := false } }
    (s.conv.overTemp = false →
      exec .start s = .next { entered with
        conv := { s.conv with scan := .sectionScan, work := some ⟨.cant, .settling a.cantSettle⟩ }
        seq := { s.seq with table := some (initTable s.ctrl.setup), sweep := .waiting }
        store := { s.store with
          records := [openedRecord s.ctrl.setup 0 s.store.gapCount s.store.gapReasons]
          gapCount := 0
          gapReasons := ⟨false, false, false, false⟩ } })
    ∧ (s.conv.overTemp = true → s.line.groupB.length + (gapEdges s.ctrl.setup 0).length ≤ 8 →
      exec .start s = .next ((gapEdges s.ctrl.setup 0).foldl (fun x e => enqueue .b e x) { entered with
        seq := { s.seq with table := some (initTable s.ctrl.setup) }
        store := { s.store with
          gapCount := s.store.gapCount + 1
          gapReasons := { s.store.gapReasons with hot := true } } })))
  ∧ ∀ (u : Setup) (k j : Fin 8) (item : Vector ElementCalib 8), u.calib[k] = some item →
      (initTable u)[8 * k.val + j.val] =
        { angle := item[j].angle, offset := item[j].offset, enabled := item[j].enabled, cls := item[j].cls, weakRun := 0 }

/-- START in CONFIG names the lowest item that fails and records SETUP_INVALID; START in HALTED returns to RUN and touches nothing
else; START in RUN is ignored (R13, R32, R76, R150, R173, R174). -/
def Obligations.StartElsewhere : Prop :=
  ∀ (x : Received) (rest : List Received) (s : State),
    s.resetAsserted = false → s.line.queue = x :: rest → x.kind = .start → x.payload = [] →
    (∀ item : Nat, s.ctrl.station = .config → 1 ≤ item → item ≤ 32 →
        itemFails s.ctrl.ownNumber.toNat s.ctrl.setup item = true →
        (∀ j : Nat, 1 ≤ j → j < item → itemFails s.ctrl.ownNumber.toNat s.ctrl.setup j = false) →
        exec .start s = .next (record .setupInvalid
          { s.withQueue rest with ctrl := { s.ctrl with failingItem := some item } }))
      ∧ (s.ctrl.station = .halted → exec .start s = .next { s.withQueue rest with ctrl := { s.ctrl with station := .run } })
      ∧ (s.ctrl.station = .run → exec .start s = .next (s.withQueue rest))

/-- The START checks item by item: each item fails exactly as the table of R174 says, and never otherwise. And what checks that all pass
ensure: the required items are stored, DMIN is below DMAX, DW_S does not exceed DW_L, no neighbour is the own number, the neighbours
differ, every zone that exists holds 1..32 bins, no two segments share a bin, and the group order code names an order (R112, R174). -/
def Obligations.PassedChecksEnsure : Prop :=
  (∀ (own : Nat) (u : Setup),
    let badZone := fun (neighbour : Option Nat) (z : BinRange) => neighbour ≠ none ∧ (z.hi < z.lo ∨ 32 < z.hi - z.lo + 1)
    (itemFails own u 1 = true ↔ u.survey = none ∨ ∃ v, u.survey = some v ∧ ¬ v.dMin < v.dMax)
    ∧ (itemFails own u 2 = true ↔ u.head = none)
    ∧ (∀ k : Fin 8, itemFails own u (3 + k.val) = true ↔ u.calib[k] = none)
    ∧ (itemFails own u 11 = true ↔ u.sweep = none ∨ ∃ w, u.sweep = some w ∧ w.dwellLong < w.dwellShort)
    ∧ (itemFails own u 12 = true ↔ u.zones = none ∨ ∃ z, u.zones = some z
        ∧ (z.left = some own ∨ z.right = some own ∨ (z.left ≠ none ∧ z.right ≠ none ∧ z.left = z.right)
          ∨ badZone z.left z.leftZone ∨ badZone z.right z.rightZone))
    ∧ (∀ j : Fin 12, itemFails own u (13 + j.val) = true ↔
        ∃ (g h : Segment) (i : Fin 12) (b : Nat), u.envelope[j] = some g ∧ i < j ∧ u.envelope[i] = some h
          ∧ g.covers b = true ∧ h.covers b = true)
    ∧ (∀ item : Nat, (25 ≤ item ∧ item ≤ 29) ∨ item = 32 → itemFails own u item = false)
    ∧ (itemFails own u 30 = true ↔ u.aux = none)
    ∧ (itemFails own u 31 = true ↔ u.line = none ∨ ∃ l, u.line = some l ∧ 6 ≤ l.orderCode))
  ∧ ∀ (own : Nat) (u : Setup), (∀ item : Nat, 1 ≤ item → item ≤ 32 → itemFails own u item = false) →
    (∃ v, u.survey = some v ∧ v.dMin < v.dMax) ∧ u.head.isSome = true ∧ (∀ k : Fin 8, u.calib[k].isSome = true)
      ∧ (∃ w, u.sweep = some w ∧ w.dwellShort ≤ w.dwellLong) ∧ u.aux.isSome = true
      ∧ (∃ l, u.line = some l ∧ l.orderCode ≤ 5)
      ∧ u.zones.isSome = true
      ∧ (∀ sd : Side, u.neighbour sd ≠ some own)
      ∧ (∀ n : Nat, u.neighbour .left = some n → u.neighbour .right ≠ some n)
      ∧ (∀ (sd : Side) (z : BinRange), u.zone sd = some z → z.lo ≤ z.hi ∧ z.hi + 1 - z.lo ≤ 32)
      ∧ (∀ (i j : Fin 12) (g h : Segment), i ≠ j → u.envelope[i] = some g → u.envelope[j] = some h →
          ∀ b : Nat, ¬ (g.covers b = true ∧ h.covers b = true))

/-! ### The auxiliary converter (chapter 2) -/

/-- SETTLE_EXPIRY begins the conversion of the channel that settles; SCAN_INTERVAL_EXPIRY stops the running interval and, from IDLE,
begins a periodic scan; SUPPLY_COMPLETION and TEMP_COMPLETION evaluate their condition with its hysteresis, record its entry, and go on
to TEMP, or complete the scan (R17, R23, R25, R26). -/
def Obligations.ConverterEvents : Prop :=
  (∀ (s : State) (ch : Channel) (micros : Nat), s.resetAsserted = false → s.conv.work = some ⟨ch, .settling micros⟩ →
    exec .settleExpiry s = .next { s with conv := { s.conv with work := some ⟨ch, .converting⟩ } })
  ∧ (∀ (s : State) (a : Aux), s.resetAsserted = false → s.ctrl.setup.aux = some a → s.conv.intervalRunning = true →
    exec .scanIntervalExpiry s = .next { s with conv :=
      if s.conv.scan = .idle then
        { s.conv with intervalRunning := false, scan := .periodic, work := some ⟨.cant, .settling a.cantSettle⟩ }
      else { s.conv with intervalRunning := false } })
  ∧ (∀ (s : State) (a : Aux) (code : BitVec 12), s.resetAsserted = false → s.ctrl.setup.aux = some a →
    s.conv.work = some ⟨.supply, .converting⟩ →
    let weak : Bool := if s.conv.supplyWeak then decide (code.toNat < a.supLo + a.supHyst) else decide (code.toNat < a.supLo)
    let judged : State := { s with conv := { s.conv with supplyWeak := weak } }
    let told : State := if weak && !s.conv.supplyWeak then record .supplyWeak judged else judged
    exec (.supplyCompletion code) s = .next { told with conv := { told.conv with work := some ⟨.temp, .settling a.tempSettle⟩ } })
  ∧ (∀ (s : State) (a : Aux) (code : BitVec 12), s.resetAsserted = false → s.ctrl.setup.aux = some a →
    s.conv.work = some ⟨.temp, .converting⟩ →
    let hot : Bool := if s.conv.overTemp then decide ((a.tempHi : Int) - a.tempHyst ≤ code.toNat) else decide (a.tempHi ≤ code.toNat)
    let judged : State := { s with conv := { s.conv with overTemp := hot } }
    let told : State := if hot && !s.conv.overTemp then record .overTemp judged else judged
    exec (.tempCompletion code) s = .next
      { told with conv := { told.conv with scan := .idle, work := none, intervalRunning := true } })

/-- The cant of a code: the raw cant is the integer nearest to (code − CANT_ZERO) × CANT_GAIN / 256, an exact half away from zero,
and lies within −65,520..65,520; the current cant is the raw cant within −CANT_LIM..CANT_LIM and the nearer limit outside. And
CANT_COMPLETION outside a section scan that waits for its cant takes it, records CANT_CLAMP if it was clamped, and SUPPLY begins
settling; no sweep begins (R20, R21, R22). -/
def Obligations.CantOfCode : Prop :=
  (∀ (a : Aux) (code : BitVec 12), a.inRange →
    let p : Int := ((code.toNat : Int) - a.cantZero) * a.cantGain
    let raw := rawCant a code.toNat
    let cant := limitCant a raw
    2 * |256 * raw - p| ≤ 256 ∧ (2 * |256 * raw - p| = 256 → |p| < |256 * raw|) ∧ -65520 ≤ raw ∧ raw ≤ 65520
      ∧ (-(a.cantLim : Int) ≤ raw → raw ≤ a.cantLim → cant = raw)
      ∧ ((a.cantLim : Int) < raw → cant = a.cantLim) ∧ (raw < -(a.cantLim : Int) → cant = -(a.cantLim : Int))
      ∧ -2731 ≤ cant ∧ cant ≤ 2731)
  ∧ ∀ (s : State) (a : Aux) (code : BitVec 12), s.resetAsserted = false → s.ctrl.setup.aux = some a →
    s.conv.work = some ⟨.cant, .converting⟩ → ¬ (s.conv.scan = .sectionScan ∧ s.seq.sweep = .waiting) →
    let raw := rawCant a code.toNat
    let taken : State := { s with conv := { s.conv with cant := limitCant a raw } }
    let told : State := if limitCant a raw = raw then taken else record .cantClamp taken
    exec (.cantCompletion code) s = .next { told with conv := { told.conv with work := some ⟨.supply, .settling a.supSettle⟩ } }

/-- CANT_COMPLETION of a section scan starts the sweep: the cant and REDUCED are fixed, the fired and excluded counts written, the group
list built, the geometry handed over, and the first group driven with its acceptance open. With an empty group list the sweep completes at
once: the fired count is 0, and all is as at a GAP_EXPIRY after the last group of a sweep (R20, R22, R33, R35, R39, R40, R42, R55, R61). A
kind CANT_CLAMP that is FATAL would end the section instead. -/
def Obligations.CantCompletionStartsSweep : Prop :=
  ∀ (s : State) (a : Aux) (code : BitVec 12) (h : Head) (w : SweepItem) (table : Vector Element 64),
    s.resetAsserted = false → s.ctrl.setup.aux = some a → s.conv.work = some ⟨.cant, .converting⟩ →
    s.conv.scan = .sectionScan → s.seq.sweep = .waiting → s.ctrl.setup.head = some h → s.ctrl.setup.sweep = some w →
    s.seq.table = some table → ¬ s.ctrl.setup.fatal .cantClamp →
    let raw := rawCant a code.toNat
    let cant := limitCant a raw
    let reduced := s.conv.supplyWeak
    let excluded := fun x : Element => s.ctrl.setup.excludes (((x.angle : Int) + h.mount + cant) % 65536).toNat
    let fire := fun x : Element => x.enabled && !(excluded x)
    let taken : State := { s with conv := { s.conv with cant := cant, work := some ⟨.supply, .settling a.supSettle⟩ } }
    let told : State := if cant = raw then taken else record .cantClamp taken
    let summed := fun fired : Nat => s.store.records.map fun r =>
      if r.state = .sweeping then
        { r with summary := { r.summary with sweep := some ⟨cant, reduced, fired,
            (table.toList.filter fun x => x.enabled && excluded x).length⟩ } }
      else r
    (∀ (g : FiringGroup) (rest : List FiringGroup), buildGroups w reduced table fire = g :: rest →
      exec (.cantCompletion code) s = .next { told with
        seq := { s.seq with groups := g :: rest, fixed := some ⟨cant, reduced⟩, sweep := .dwell 0, rows := g.rows, cols := g.cols }
        echo := { acceptance := some (g.members.map fun e => ⟨e, [], false⟩)
                  geometry := some
                    { cant := cant
                      ox := h.gx + roundHalfAway (h.hx * cosine cant - h.hy * sine cant) 32768
                      oy := h.gy + roundHalfAway (h.hx * sine cant + h.hy * cosine cant) 32768
                      beams := table.toList.map fun x => (((x.angle : Int) + h.mount + cant) % 65536).toNat } }
        store := { s.store with records := summed (table.toList.filter fire).length } })
    ∧ (buildGroups w reduced table fire = [] →
      (∀ e : Fin 64, fire table[e] = false)
      ∧ ∃ t : State, exec (.cantCompletion code) s = .next t
        ∧ exec .gapExpiry { told with
            seq := { s.seq with groups := [], fixed := some ⟨cant, reduced⟩, sweep := .gap 0 }
            store := { s.store with records := summed 0 } } = .next t
        ∧ t.seq = { s.seq with groups := [], sweep := .idle, fixed := none, rows := 0, cols := 0 }
        ∧ t.echo = { acceptance := none, geometry := none }
        ∧ t.conv = { s.conv with scan := .periodic, cant := cant, work := some ⟨.supply, .settling a.supSettle⟩ }
        ∧ ∀ r ∈ t.store.records, r.state ≠ .sweeping)

/-! ### The emitter sequencer (chapter 3) -/

/-- The group list is in ascending order of lowest members; every element to be fired is a member of exactly one group and no other
element of any; two are paired exactly when pairing is on, the sweep is not REDUCED and both are to be fired; and a group's dwell is the
larger of its members' dwells (R36, R37). -/
def Obligations.GroupsHoldEachFiredElementOnce : Prop :=
  ∀ (w : SweepItem) (reduced : Bool) (table : Vector Element 64) (fire : Element → Bool),
    let groups := buildGroups w reduced table fire
    let dwell := fun x : Element => if reduced then w.dwellShort else if x.cls = .short then w.dwellShort else w.dwellLong
    (groups.map (·.lead)).Pairwise (· < ·)
      ∧ (∀ e : Fin 64, (groups.filter fun g => g.members.contains e.val).length = if fire table[e] then 1 else 0)
      ∧ (∀ g ∈ groups, ∀ e ∈ g.members, e < 64)
      ∧ (∀ e : Fin 32, (∃ g ∈ groups, g.lead = e.val ∧ g.paired = true) ↔
          w.pairing = true ∧ reduced = false ∧ fire table[e.val] = true ∧ fire table[e.val + 32] = true)
      ∧ (∀ g ∈ groups, g.paired = true → g.lead < 32)
      ∧ (∀ g ∈ groups, ∀ k : Fin 64, g.lead = k.val → g.paired = false → g.dwell = dwell table[k])
      ∧ (∀ g ∈ groups, ∀ k : Fin 32, g.lead = k.val → g.paired = true →
          g.dwell = max (dwell table[k.val]) (dwell table[k.val + 32]))

/-- DWELL_EXPIRY releases the drivers, closes acceptance and begins the gap after the group. It changes besides only dwell classes and
weak runs, in a sweep that is not REDUCED, and in SWEEPING records the bin list and the valid, near, far and suspect-dropped counts
(R41, R45, R56). -/
def Obligations.DwellExpiryClosesGroup : Prop :=
  ∀ (s : State) (k : Nat), s.resetAsserted = false → s.seq.sweep = .dwell k →
    ∃ (table : Option (Vector Element 64)) (records : List SectionRecord),
      exec .dwellExpiry s = .next { s with
        seq := { s.seq with table := table, sweep := .gap k, rows := 0, cols := 0 }
        echo := { s.echo with acceptance := none }
        store := { s.store with records := records } }
      ∧ (table.map fun t => t.toList.map fun x => (x.angle, x.offset, x.enabled))
          = (s.seq.table.map fun t => t.toList.map fun x => (x.angle, x.offset, x.enabled))
      ∧ (∀ x : SweepFixed, s.seq.fixed = some x → x.reduced = true → table = s.seq.table)
      ∧ records.length = s.store.records.length
      ∧ ∀ (i : Nat) (r q : SectionRecord), s.store.records[i]? = some r → records[i]? = some q →
          (r.state ≠ .sweeping → q = r)
            ∧ q = { r with bins := q.bins, summary := { r.summary with
                valid := q.summary.valid, near := q.summary.near, far := q.summary.far
                suspectDropped := q.summary.suspectDropped } }

/-- The close of a group of one element with one held echo that is valid and not suspect: the point of R62, with the radius of R63 and
the quality of R66, is placed as LAST in its bin of the SWEEPING record, the valid count rises by 1, and the element is adapted. And the
close of any group, single or pair, whatever its echoes, member after member, as a group has them in ascending element number: NEAR and FAR
echoes are counted; of two valid echoes of a member the earlier is FIRST_ONLY and the later LAST, and one alone is LAST; under its foreign
mark they are suspect, and are forwarded at half quality, or dropped and counted; the points enter their bins in this order; and each
member is adapted by its last valid echo, dropped or not, unless the sweep is REDUCED (R36, R41, R44, R45, R56, R58, R64, R65, R66, R67,
R79). -/
def Obligations.ValidEchoReachesItsBin : Prop :=
  (∀ (s : State) (k : Nat) (v : Survey) (w : SweepItem) (table : Vector Element 64) (f : SweepFixed) (g : Geometry) (e : EchoRecord)
    (x y : Int) (r bin : Nat),
    s.resetAsserted = false → s.seq.sweep = .dwell k → s.ctrl.setup.survey = some v → s.ctrl.setup.sweep = some w →
    s.seq.table = some table → s.seq.fixed = some f → f.reduced = false → s.echo.geometry = some g →
    s.echo.acceptance = some [⟨e.element.val, [e], false⟩] →
    disposalOf v g table[e.element].offset e = .valid x y r → binOf x y = some bin →
    let q := if e.saturated then 1 else e.amplitude.toNat
    exec .dwellExpiry s = .next { s with
      seq := { s.seq with
        table := some (table.set e.element.val
          (table[e.element].adapt w.weakLimit (outcomeOf w.ampLo (some (e.amplitude.toNat, e.saturated)))) e.element.isLt)
        sweep := .gap k, rows := 0, cols := 0 }
      echo := { s.echo with acceptance := none }
      store := { s.store with records := s.store.records.map fun n =>
        if n.state = .sweeping then
          { n with
            bins := placeInBins bin s.ctrl.setup.watchItem.warn (clearance r (s.envelopeAt bin))
              ⟨e.element.val, x, y, r, q, .last, false⟩ n.bins
            summary := { n.summary with valid := n.summary.valid + 1 } }
        else n } })
  ∧ (∀ g : FiringGroup, g.members.Pairwise (· < ·) ∧ g.members.head? = some g.lead ∧ g.members.length = if g.paired then 2 else 1)
  ∧ ∀ (s : State) (k : Nat) (v : Survey) (w : SweepItem) (table : Vector Element 64) (f : SweepFixed) (g : Geometry)
      (members : List (Fin 64 × List EchoRecord × Bool)),
    s.resetAsserted = false → s.seq.sweep = .dwell k → s.ctrl.setup.survey = some v → s.ctrl.setup.sweep = some w →
    s.seq.table = some table → s.seq.fixed = some f → s.echo.geometry = some g →
    s.echo.acceptance = some (members.map fun m => ⟨m.1.val, m.2.1, m.2.2⟩) → (∀ m ∈ members, m.2.1.length ≤ 2) →
    let disposals := fun m : Fin 64 × List EchoRecord × Bool => m.2.1.map fun e => (e, disposalOf v g table[m.1].offset e)
    let all := members.flatMap disposals
    let near := (all.filter fun d => decide (d.2 = .near)).length
    let far := (all.filter fun d => decide (d.2 = .far)).length
    let valid := fun m : Fin 64 × List EchoRecord × Bool => (disposals m).filterMap fun d => match d.2 with
      | .valid x y r => some (⟨d.1, x, y, r⟩ : ValidEcho)
      | .near | .far => none
    let forwarded := fun m : Fin 64 × List EchoRecord × Bool => if m.2.2 = true ∧ w.forwardSuspect = false then [] else valid m
    let point := fun (m : Fin 64 × List EchoRecord × Bool) (p : ValidEcho) (role : Role) =>
      let q := if p.echo.saturated then 1 else p.echo.amplitude.toNat
      (⟨m.1.val, p.x, p.y, p.r, if m.2.2 then q / 2 else q, role, m.2.2⟩ : PointRecord)
    let points := members.flatMap fun m => match forwarded m with
      | [] => []
      | [p] => [point m p .last]
      | p :: p' :: _ => [point m p .firstOnly, point m p' .last]
    let place := fun (bins : List BinRecord) (p : PointRecord) => match binOf p.x p.y with
      | some b => placeInBins b s.ctrl.setup.watchItem.warn (clearance p.r (s.envelopeAt b)) p bins
      | none => bins
    let back := fun m : Fin 64 × List EchoRecord × Bool =>
      (valid m).getLast?.map fun p => (p.echo.amplitude.toNat, p.echo.saturated)
    exec .dwellExpiry s = .next { s with
      seq := { s.seq with
        table := some (if f.reduced then table
          else members.foldl
            (fun t m => t.set m.1.val (t[m.1].adapt w.weakLimit (outcomeOf w.ampLo (back m))) m.1.isLt) table)
        sweep := .gap k, rows := 0, cols := 0 }
      echo := { s.echo with acceptance := none }
      store := { s.store with records := s.store.records.map fun n =>
        if n.state = .sweeping then
          { n with
            bins := points.foldl place n.bins
            summary := { n.summary with
              near := n.summary.near + near
              far := n.summary.far + far
              valid := n.summary.valid + points.length
              suspectDropped := n.summary.suspectDropped
                + (members.map fun m => (valid m).length - (forwarded m).length).sum } }
        else n } }

/-- GAP_EXPIRY starts the next group of the list; after the last group it completes the sweep: the sequencer returns to IDLE with its
list and fixed properties dropped, the geometry is gone, what remains of a section scan goes on as a periodic scan, and no record is
SWEEPING any more (R22, R40, R42, R55, R61, R95). -/
def Obligations.GapExpiryGoesOn : Prop :=
  ∀ (s : State) (k : Nat), s.resetAsserted = false → s.seq.sweep = .gap k →
    (∀ g : FiringGroup, s.seq.groups[k + 1]? = some g →
      exec .gapExpiry s = .next { s with
        seq := { s.seq with sweep := .dwell (k + 1), rows := g.rows, cols := g.cols }
        echo := { s.echo with acceptance := some (g.members.map fun e => ⟨e, [], false⟩) } })
    ∧ (s.seq.groups.length ≤ k + 1 →
      ∃ t : State, exec .gapExpiry s = .next t
        ∧ t.seq = { s.seq with groups := [], sweep := .idle, fixed := none, rows := 0, cols := 0 }
        ∧ t.echo = { acceptance := none, geometry := none }
        ∧ t.conv = { s.conv with scan := if s.conv.scan = .sectionScan then .periodic else s.conv.scan }
        ∧ t.env = s.env ∧ t.odo.pos = s.odo.pos ∧ t.ctrl.setup = s.ctrl.setup
        ∧ ∀ r ∈ t.store.records, r.state ≠ .sweeping)

/-- The completion of the sweep of a section with no neighbour and no intrusion, alone in the store and with an empty watch table and
group C: the record becomes HELD, READY and SENDING in one event, its parts enter group C, and nothing but the peer records' ages
moves besides. And with neighbours: an EDGE of each configured zone's bin records is queued in group B, the left one's first, and one that
finds the group full is dropped and records TX_DROPPED; then held peer edges are applied, left first; then a side still AWAITED leaves the
record HELD with its window started, or closed where its count has run out, and otherwise it is READY and reports (R95, R96, R97, R98, R101,
R102, R114, R115, R124, R135, R143). -/
def Obligations.SweepCompletionReports : Prop :=
  (∀ (s : State) (k : Nat) (r : SectionRecord) (z : Zones), s.resetAsserted = false → s.seq.sweep = .gap k →
    s.seq.groups.length ≤ k + 1 → s.ctrl.station = .run → s.ctrl.setup.zones = some z → z.left = none → z.right = none →
    s.store.records = [r] → r.state = .sweeping → r.leftSide = .none → r.rightSide = .none → r.leftEdge = none → r.rightEdge = none →
    (∀ b ∈ r.bins, b.intrusion = false) → r.bins.length ≤ 128 → s.watch.locals = [] → s.line.groupC = [] → s.line.rx ≠ .idle →
    let done : SectionRecord := { r with state := .sending, windowTimer := false, partsQueued := r.partCount }
    exec .gapExpiry s = .next { s with
      seq := { s.seq with groups := [], sweep := .idle, fixed := none, rows := 0, cols := 0 }
      echo := { acceptance := none, geometry := none }
      conv := { s.conv with scan := if s.conv.scan = .sectionScan then .periodic else s.conv.scan }
      watch := { s.watch with peers :=
        (s.watch.peers.map fun p => { p with age := p.age - 1 }).filter fun p => decide (0 < p.age) }
      store := { s.store with records := [done] }
      line := { s.line with groupC := (List.range r.partCount).map fun i => ⟨31, .report (r.part i)⟩ } })
  ∧ ∀ (s : State) (k : Nat) (r : SectionRecord) (z : Zones), Completing s k r → s.ctrl.setup.zones = some z →
    (∀ b ∈ r.bins, b.intrusion = false) → r.bins.length ≤ 128 → s.watch.locals = [] → s.line.groupC = [] →
    let u := s.ctrl.setup
    let own := s.ctrl.ownNumber.toNat
    let edge := fun (sd : Side) (field : EdgeSide) => (u.neighbour sd).toList.map fun nb => (⟨nb, .edge
      { number := r.number, side := field, gap := false
        entries := (r.bins.filter fun b => u.inZone sd b.bin).map fun b => ⟨b.bin, b.qBest, b.nLast⟩ }⟩ : Telegram)
    let edges := edge .left .left ++ edge .right .right
    let sent := edges.take (8 - s.line.groupB.length)
    (sent.length < edges.length → ¬ u.fatal .txDropped) →
    let told : State := (record .txDropped)^[edges.length - sent.length] s
    let left := r.leftEdge.elim r fun e => r.applyEdge u own .left e
    let stitched : SectionRecord :=
      { r.rightEdge.elim left (fun e => left.applyEdge u own .right e) with leftEdge := none, rightEdge := none, state := .held }
    let settled : SectionRecord :=
      if stitched.leftSide = .awaited ∨ stitched.rightSide = .awaited then
        if z.basis = .time then { stitched with windowTimer := true }
        else if z.window ≤ stitched.windowCount then stitched.close u else stitched
      else { stitched with state := .ready, windowTimer := false }
    exec .gapExpiry s = .next { told with
      seq := { s.seq with groups := [], sweep := .idle, fixed := none, rows := 0, cols := 0 }
      echo := { acceptance := none, geometry := none }
      conv := { s.conv with scan := if s.conv.scan = .sectionScan then .periodic else s.conv.scan }
      watch := { s.watch with peers :=
        (s.watch.peers.map fun p => { p with age := p.age - 1 }).filter fun p => decide (0 < p.age) }
      store := { s.store with records :=
        [if settled.state = .ready then { settled with state := .sending, partsQueued := settled.partCount } else settled] }
      line := { s.line with
        groupB := s.line.groupB ++ sent
        groupC := if settled.state = .ready then (List.range settled.partCount).map fun i => ⟨31, .report (settled.part i)⟩
          else [] } }

/-- The outcome of a member, by the first of the tests of R44 that holds, and what each outcome makes of its record (R44, R45). -/
def Obligations.DwellAdaptation : Prop :=
  (∀ ampLo : Nat, outcomeOf ampLo none = .weak)
    ∧ (∀ ampLo a : Nat, ∀ sat : Bool, a < ampLo → outcomeOf ampLo (some (a, sat)) = .weak)
    ∧ (∀ ampLo a : Nat, ampLo ≤ a → outcomeOf ampLo (some (a, true)) = .saturated ∧ outcomeOf ampLo (some (a, false)) = .normal)
    ∧ (∀ (x : Element) (w : Nat), x.cls = .short → 1 ≤ w →
        x.adapt w .weak = (if x.weakRun + 1 < w then { x with weakRun := x.weakRun + 1 } else { x with cls := .long, weakRun := 0 })
          ∧ x.adapt w .saturated = { x with weakRun := 0 } ∧ x.adapt w .normal = { x with weakRun := 0 })
    ∧ (∀ (x : Element) (w : Nat), x.cls = .long →
        x.adapt w .weak = { x with weakRun := 0 } ∧ x.adapt w .saturated = { x with cls := .short, weakRun := 0 }
          ∧ x.adapt w .normal = { x with weakRun := 0 })

/-! ### The echo processor (chapter 4) -/

/-- ECHO_RECORD by the sweep state: in IDLE nothing; in WAITING and GAP, and for a non-member in DWELL, the foreign count of the
SWEEPING record rises, FOREIGN_ECHO recorded at the section's first; for a member a mismatched or third echo is foreign too and sets its
mark, and any other is held (R52, R53, R54). -/
def Obligations.EchoArrival : Prop :=
  ∀ (e : EchoRecord) (s : State), s.resetAsserted = false →
    let counted : State := { s with store := { s.store with records := s.store.records.map fun r =>
      if r.state = .sweeping then { r with summary := { r.summary with foreign := min 65535 (r.summary.foreign + 1) } } else r } }
    (s.seq.sweep = .idle → exec (.echoRecord e) s = .next s)
    ∧ (∀ r : SectionRecord, s.store.sweeping = some r →
        let told : State := if r.summary.foreign = 0 then record .foreignEcho counted else counted
        ((s.seq.sweep = .waiting ∨ ∃ k, s.seq.sweep = .gap k) → exec (.echoRecord e) s = .next told)
        ∧ ∀ (k : Nat) (members : List Member), s.seq.sweep = .dwell k → s.echo.acceptance = some members →
          ((∀ m ∈ members, m.element ≠ e.element.val) → exec (.echoRecord e) s = .next told)
          ∧ ∀ m : Member, (members.find? fun x => x.element == e.element.val) = some m →
            let marked : State := { s with echo := { s.echo with acceptance := some (members.map fun x =>
              if x.element = e.element.val then { x with foreign := true } else x) } }
            let counted' : State := { marked with store := counted.store }
            ((e.codeMatch = false ∨ 2 ≤ m.held.length) →
              exec (.echoRecord e) s = .next (if r.summary.foreign = 0 then record .foreignEcho counted' else counted'))
            ∧ (e.codeMatch = true → m.held.length < 2 →
              exec (.echoRecord e) s = .next { s with echo := { s.echo with acceptance := some (members.map fun x =>
                if x.element = e.element.val then { x with held := x.held ++ [e] } else x) } }))

/-- The range of an echo (R57). -/
def Obligations.RangeOfEcho : Prop :=
  ∀ (ks tof : Nat) (offset : Int), tof ≤ 1048575 → 360000 ≤ ks → ks ≤ 400000 → -5000 ≤ offset → offset ≤ 5000 →
    let raw : Nat := (tof * ks + 32768) / 65536
    rangeOf ks offset tof = (raw : Int) - offset ∧ tof * ks ≤ 419430000000 ∧ raw ≤ 6399994
      ∧ 65536 * raw ≤ tof * ks + 32768 ∧ tof * ks + 32768 < 65536 * (raw + 1)
      ∧ -5000 ≤ rangeOf ks offset tof ∧ rangeOf ks offset tof ≤ 6404994

/-- What becomes of a held echo: NEAR by its TOF, its range or a point at the origin; FAR above DMAX; any other valid, at the point of
R62 and with the integer square root of x² + y² as its radius, at least 1 (R58, R62, R63). -/
def Obligations.DisposalOfEcho : Prop :=
  ∀ (v : Survey) (g : Geometry) (offset : Int) (e : EchoRecord),
    let d := rangeOf v.ks offset e.tof.toNat
    let beam : Int := g.beams.getD e.element.val 0
    let x := g.ox + roundHalfAway (d * cosine beam) 32768
    let y := g.oy + roundHalfAway (d * sine beam) 32768
    ((e.tof.toNat < v.tofMin ∨ d < v.dMin) → disposalOf v g offset e = .near)
    ∧ (v.tofMin ≤ e.tof.toNat → (v.dMin : Int) ≤ d → (v.dMax : Int) < d → disposalOf v g offset e = .far)
    ∧ (v.tofMin ≤ e.tof.toNat → (v.dMin : Int) ≤ d → d ≤ v.dMax → x = 0 → y = 0 → disposalOf v g offset e = .near)
    ∧ (v.tofMin ≤ e.tof.toNat → (v.dMin : Int) ≤ d → d ≤ v.dMax → ¬ (x = 0 ∧ y = 0) →
        ∃ r : Nat, disposalOf v g offset e = .valid x y r ∧ 1 ≤ r
          ∧ ((r * r : Nat) : Int) ≤ x * x + y * y ∧ x * x + y * y < (((r + 1) * (r + 1) : Nat) : Int))

/-- The quality of a valid echo (R66). -/
def Obligations.QualityOfEcho : Prop :=
  ∀ (e : EchoRecord) (suspect : Bool),
    qualityOf e suspect = (if suspect then (if e.saturated then 1 else e.amplitude.toNat) / 2
      else if e.saturated then 1 else e.amplitude.toNat)
    ∧ qualityOf e suspect ≤ 255
    ∧ (e.saturated = true → suspect = true → qualityOf e suspect = 0)
    ∧ (e.amplitude.toNat ≤ 1 → suspect = true → qualityOf e suspect = 0)

/-- The two named roundings and the integer square root (00_scope.md, Roundings). -/
def Obligations.RoundingsAreNearest : Prop :=
  (∀ (p : Int) (q : Nat), 1 ≤ q →
      2 * |(q : Int) * roundHalfAway p q - p| ≤ q
        ∧ (2 * |(q : Int) * roundHalfAway p q - p| = q → |p| < |(q : Int) * roundHalfAway p q|))
    ∧ (∀ p q : Nat, 1 ≤ q → 2 * q * roundHalfUp p q ≤ 2 * p + q ∧ 2 * p + q < 2 * q * (roundHalfUp p q + 1))
    ∧ ∀ n : Nat, isqrt n * isqrt n ≤ n ∧ n < (isqrt n + 1) * (isqrt n + 1)

/-- The interpolated sine lies between the table entries on either side of its angle, is the entry itself on a multiple of 64, is taken
modulo the full turn, and gives the cosine a quarter turn on; the table has the symmetries of the sine, ascends over its first quarter,
and holds the entries of R59's list (R59, R60). -/
def Obligations.InterpolatedSine : Prop :=
  (∀ a : Int,
      let m := (a % 65536).toNat
      min (sineTable (m / 64)) (sineTable (m / 64 + 1)) ≤ sine a ∧ sine a ≤ max (sineTable (m / 64)) (sineTable (m / 64 + 1))
        ∧ (m % 64 = 0 → sine a = sineTable (m / 64)) ∧ -32767 ≤ sine a ∧ sine a ≤ 32767
        ∧ sine (a + 65536) = sine a ∧ cosine a = sine (a + 16384))
    ∧ (∀ k : Nat, sineTable (k + 1024) = sineTable k ∧ sineTable (k + 512) = -sineTable k
        ∧ (k ≤ 512 → sineTable (512 - k) = sineTable k) ∧ (k < 256 → sineTable k < sineTable (k + 1)))
    ∧ [0, 1, 9, 10, 128, 256, 265, 266, 384, 512, 1023].map sineTable
        = [0, 201, 1809, 2009, 23170, 32767, 32717, 32705, 23170, 0, -201]

/-! ### The ring binner (chapter 5) -/

/-- Every point but the origin passes the tests of exactly one bin, and that is its bin; the origin passes none; a point on a ray
belongs to the bin above it, and the four half axes to bins 0, 256, 512 and 768 (R73). -/
def Obligations.ExactlyOneBin : Prop :=
  (∀ x y : Int, ¬ (x = 0 ∧ y = 0) →
      ∃ b : Nat, b < 1024 ∧ binOf x y = some b ∧ ∀ c : Nat, c < 1024 → (inBin x y c = true ↔ c = b))
    ∧ (∀ c : Nat, inBin 0 0 c = false) ∧ binOf 0 0 = none
    ∧ (∀ (x y : Int) (b : Nat), b < 1024 → cosineTable b * y - sineTable b * x = 0 →
        0 < cosineTable b * x + sineTable b * y → binOf x y = some b)
    ∧ (∀ n : Int, 0 < n → binOf n 0 = some 0 ∧ binOf 0 n = some 256 ∧ binOf (-n) 0 = some 512 ∧ binOf 0 (-n) = some 768)

/-- The envelope table expanded from segments of which no two share a bin: one entry for each bin; a covered bin's radius is RS plus the
rounded term of its segment and lies between RS and RE, which the end bins have exactly; a bin no segment covers is absent (R75). -/
def Obligations.EnvelopeExpansion : Prop :=
  ∀ segments : List (Option Segment),
    (∀ g, some g ∈ segments → g.inRange) →
    (segments.filterMap id).Pairwise (fun g h => ∀ b : Nat, ¬ (g.covers b = true ∧ h.covers b = true)) →
    let env := expandEnvelope segments
    env.length = 1024
      ∧ (∀ b : Nat, b < 1024 → (∀ g, some g ∈ segments → g.covers b = false) → env[b]? = some none)
      ∧ ∀ (g : Segment) (b : Nat), some g ∈ segments → g.covers b = true →
          ∃ r : Nat, env[b]? = some (some r)
            ∧ (r : Int) = (if g.b0 < g.b1 then
                (g.rs : Int) + roundHalfAway (((g.re : Int) - g.rs) * ((b : Int) - g.b0)) (g.b1 - g.b0) else g.rs)
            ∧ min g.rs g.re ≤ r ∧ r ≤ max g.rs g.re ∧ (b = g.b0 → r = g.rs) ∧ (b = g.b1 → g.b0 < g.b1 → r = g.re)

/-- The clearance of a radius against an envelope radius (R77). -/
def Obligations.ClearanceSaturates : Prop :=
  (∀ r : Nat, clearance r none = none)
    ∧ ∀ r e : Nat,
        (-32767 ≤ (r : Int) - e → (r : Int) - e ≤ 32767 → clearance r (some e) = some ((r : Int) - e))
          ∧ (32767 < (r : Int) - e → clearance r (some e) = some 32767)
          ∧ ((r : Int) - e < -32767 → clearance r (some e) = some (-32767))

/-- A bin record after its points, in any order and number: n_last and r_sum over the LAST points, the best quality among the LAST
points, or among all where none is LAST, the lowest clearance with WARN and INTRUSION by it, SUSPECT if any point was; and a point
placed in a bin list that ascends leaves it ascending, changes its own bin's record alone, and creates it where there was none (R78 to
R85). -/
def Obligations.BinRecordGathersItsPoints : Prop :=
  (∀ (bin warn : Nat) (env : Option Nat) (p : PointRecord) (ps : List PointRecord),
      let all := p :: ps
      let b := all.foldl (fun b q => b.contribute warn (clearance q.r env) q) (BinRecord.fresh bin p.q)
      let lasts := all.filter fun q => decide (q.role = .last)
      let judged := if lasts = [] then all else lasts
      b.bin = bin ∧ b.nLast = lasts.length ∧ b.rSum = (lasts.map (·.r)).sum
        ∧ (∃ q ∈ judged, b.qBest = q.q) ∧ (∀ q ∈ judged, q.q ≤ b.qBest)
        ∧ b.suspect = all.any (·.suspect)
        ∧ (env = none → b.cMin = none ∧ b.warn = false ∧ b.intrusion = false)
        ∧ (env ≠ none → ∃ c : Int, b.cMin = some c ∧ b.warn = decide (c < (warn : Int)) ∧ b.intrusion = decide (c < 0)
            ∧ (∃ q ∈ all, clearance q.r env = some c) ∧ ∀ q ∈ all, ∀ x, clearance q.r env = some x → c ≤ x)
        ∧ b.unpaired = false ∧ b.contested = false ∧ b.ceded = false)
    ∧ ∀ (bin warn : Nat) (c : Option Int) (p : PointRecord) (bins : List BinRecord), bins.Pairwise (fun x y => x.bin < y.bin) →
        let placed := placeInBins bin warn c p bins
        placed.Pairwise (fun x y => x.bin < y.bin)
          ∧ (∀ x : BinRecord, x.bin ≠ bin → (x ∈ placed ↔ x ∈ bins))
          ∧ (∀ x ∈ bins, x.bin = bin → x.contribute warn c p ∈ placed)
          ∧ ((∀ x ∈ bins, x.bin ≠ bin) → (BinRecord.fresh bin p.q).contribute warn c p ∈ placed)

/-! ### The section store (chapter 6) -/

/-- The report of a record: its entries are its bin records that are not CEDED, in order; the parts carry them 26 at a time, all of them
and in order; there is always a part, at most 5 for 128 bin records; and part 0 alone carries the summary. An entry holds the bin, flags,
n_last, q_best and c_min of its bin record, and the mean radius: r_sum / n_last rounded half up, absent without a LAST point (R86, R102,
R103). -/
def Obligations.ReportParts : Prop :=
  (∀ b : BinRecord, ∃ m : Option Nat,
    b.entry = { bin := b.bin, suspect := b.suspect, warn := b.warn, intrusion := b.intrusion, unpaired := b.unpaired,
                contested := b.contested, nLast := b.nLast, qBest := b.qBest, meanRadius := m, cMin := b.cMin }
    ∧ (b.nLast = 0 → m = none)
    ∧ (1 ≤ b.nLast → ∃ n : Nat, m = some n ∧ 2 * b.nLast * n ≤ 2 * b.rSum + b.nLast ∧ 2 * b.rSum + b.nLast < 2 * b.nLast * (n + 1)))
  ∧ ∀ r : SectionRecord,
    (List.range r.partCount).flatMap (fun k => (r.part k).entries) = (r.bins.filter fun b => !b.ceded).map BinRecord.entry
      ∧ (∀ k : Nat, (r.part k).entries.length ≤ 26) ∧ (∀ k : Nat, k + 1 < r.partCount → (r.part k).entries.length = 26)
      ∧ (1 < r.partCount → 1 ≤ (r.part (r.partCount - 1)).entries.length)
      ∧ 1 ≤ r.partCount ∧ (r.bins.length ≤ 128 → r.partCount ≤ 5)
      ∧ (∀ k : Nat, (r.part k).number = r.number ∧ (r.part k).index = k ∧ (r.part k).count = r.partCount
          ∧ (r.part k).summary = if k = 0 then some r.summary else none)

/-- DRAIN marks every record and takes its sender as requester, with the newest record as target; with no record present and none
pending, the drain completes at once: its DRAINED, carrying no
target, is queued where group A has room (R105, R106). -/
def Obligations.DrainHandled : Prop :=
  ∀ (x : Received) (rest : List Received) (s : State), s.resetAsserted = false → s.line.queue = x :: rest → x.kind = .drain →
    x.payload = [] → (s.ctrl.station = .run ∨ s.ctrl.station = .halted) →
    (∀ (rs : List SectionRecord) (r : SectionRecord), s.store.records = rs ++ [r] →
      exec .drain s = .next { s.withQueue rest with store := { s.store with
        records := s.store.records.map fun q => { q with summary := { q.summary with drainMark := true } }
        drainRequester := some x.sender, drainTarget := some r.number, drainPending := true } })
    ∧ (s.store.records = [] → s.store.drainPending = false → s.line.groupA.length < 4 →
      exec .drain s = .next
        (let t := enqueue .a ⟨x.sender, .drained none⟩ (s.withQueue rest)
         { t with store := { s.store with drainPending := false, drainTarget := none, drainRequester := none } }))

/-- A window that closes, by its timer or by its count: each side still AWAITED becomes CLOSED, its zone's bins that are neither CEDED
nor CONTESTED become UNPAIRED, and the record is READY; a trigger counts towards a SWEEPING or HELD record's window under basis
SECTIONS, and closes the window of a HELD one that reaches it (R97, R98, R99, R129). -/
def Obligations.WindowCloses : Prop :=
  (∀ (n : Nat) (s : State) (r : SectionRecord), s.resetAsserted = false → s.store.find n = some r → r.state = .held →
      r.windowTimer = true →
      exec (.windowTimerExpiry n) s = .next (startReport { s with store := { s.store with
        records := s.store.records.map fun q => if q.number = n then q.close s.ctrl.setup else q } }))
    ∧ (∀ (u : Setup) (r : SectionRecord),
        let closing := fun b : BinRecord =>
          (decide (r.leftSide = .awaited) && u.inZone .left b.bin) || (decide (r.rightSide = .awaited) && u.inZone .right b.bin)
        r.close u = { r with
          state := .ready, windowTimer := false
          leftSide := if r.leftSide = .awaited then .closed else r.leftSide
          rightSide := if r.rightSide = .awaited then .closed else r.rightSide
          bins := r.bins.map fun b => if closing b && !b.ceded && !b.contested then { b with unpaired := true } else b })
    ∧ (∀ (u : Setup) (window : Nat) (r : SectionRecord), r.windowCount ≤ window →
        r.countTrigger u window =
          (if r.state = .sweeping then { r with windowCount := min window (r.windowCount + 1) }
           else if r.state = .held then
             (if window ≤ r.windowCount + 1 then ({ r with windowCount := min window (r.windowCount + 1) } : SectionRecord).close u
              else { r with windowCount := r.windowCount + 1 })
           else r))
    ∧ ∀ (s : State) (window : Nat), s.ctrl.setup.stitch = some (.sections, window) →
        countWindows s = startReport { s with store := { s.store with
          records := s.store.records.map (SectionRecord.countTrigger s.ctrl.setup window) } }

/-- TRANSMISSION_COMPLETION: the telegram leaves its group and the receiver goes to IDLE_WAIT. In group A the oldest owed telegram takes
the slot; in group B nothing follows; in group C a completion while parts remain enters the next, and the completion of the last part of
the SENDING record removes the record: a READY record that is then the oldest becomes SENDING, its parts entering the free slots, and
with the last marked record the drain completes, its DRAINED queued in group A, owed where the group is full, or dropped as a ninth owed
one. A part that RESTART condemned, or that is no part of the SENDING record, leaves its group and has no effect on the store, whatever the
store then holds (R101, R104, R106, R147, R148, R164, R167). -/
def Obligations.TransmissionCompletes : Prop :=
  ∀ (s : State) (x : Transmission), s.resetAsserted = false → s.line.tx = some x →
    (x.group = .a → ∀ (t o : Telegram) (rest owed : List Telegram), s.line.groupA = t :: rest → s.watch.owed = o :: owed →
      exec .transmissionCompletion s = .next { s with
        line := { s.line with tx := none, rx := .idleWait, groupA := rest ++ [o] }
        watch := { s.watch with
          owed := owed
          locals := s.watch.locals.map fun r => if r.id.any (fun id => o.isRaiseOf id) then { r with owed := false } else r } })
    ∧ (x.group = .a → s.watch.owed = [] →
      exec .transmissionCompletion s = .next { s with
        line := { s.line with tx := none, rx := .idleWait, groupA := s.line.groupA.tail } })
    ∧ (x.group = .b →
      exec .transmissionCompletion s = .next { s with
        line := { s.line with tx := none, rx := .idleWait, groupB := s.line.groupB.tail } })
    ∧ (x.group = .c → ∀ (p : ReportPart) (target : Nat) (queue : List Telegram), s.line.groupC = ⟨target, .report p⟩ :: queue →
      let gone : State := { s with line := { s.line with tx := none, rx := .idleWait, groupC := queue } }
      (x.condemned = true → exec .transmissionCompletion s = .next gone)
      ∧ ((∀ r ∈ s.store.records.head?, ¬ (r.state = .sending ∧ r.number = p.number)) → exec .transmissionCompletion s = .next gone)
      ∧ ∀ (r : SectionRecord) (rest : List SectionRecord), s.store.records = r :: rest →
      (x.condemned = false → r.state = .sending → r.number = p.number → r.partCount ≤ r.partsQueued → p.index + 1 < p.count →
          exec .transmissionCompletion s = .next gone)
      ∧ (x.condemned = false → r.state = .sending → r.number = p.number → r.partsQueued < r.partCount → queue.length < 8 →
          p.index + 1 < p.count →
          exec .transmissionCompletion s = .next { gone with
            line := { gone.line with groupC := queue ++ [⟨31, .report (r.part r.partsQueued)⟩] }
            store := { s.store with records := { r with partsQueued := r.partsQueued + 1 } :: rest } })
      ∧ (x.condemned = false → r.state = .sending → r.number = p.number → r.partCount ≤ r.partsQueued → p.index + 1 = p.count →
          let left : State := { gone with store := { s.store with records := rest } }
          (r.summary.drainMark = false ∨ (∃ q ∈ rest, q.summary.drainMark = true) →
            ((∀ q ∈ rest.head?, q.state ≠ .ready) → exec .transmissionCompletion s = .next left)
            ∧ ∀ (q : SectionRecord) (qs : List SectionRecord), rest = q :: qs → q.state = .ready →
              let entered := min q.partCount (8 - queue.length)
              exec .transmissionCompletion s = .next { left with
                line := { gone.line with groupC := queue ++ (List.range entered).map fun i => ⟨31, .report (q.part i)⟩ }
                store := { s.store with records := { q with state := .sending, partsQueued := entered } :: qs } })
          ∧ (r.summary.drainMark = true → (∀ q ∈ rest, q.summary.drainMark = false) → (∀ q ∈ rest.head?, q.state ≠ .ready) →
            ∀ requester : Nat, s.store.drainRequester = some requester →
            let drained : Telegram := ⟨requester, .drained s.store.drainTarget⟩
            let finished : Store := { s.store with records := rest, drainPending := false, drainTarget := none, drainRequester := none }
            let waiting := (s.watch.owed.filter Telegram.isDrained).length
            (s.line.groupA.length < 4 →
              exec .transmissionCompletion s = .next { gone with
                line := { gone.line with groupA := s.line.groupA ++ [drained] }, store := finished })
            ∧ (4 ≤ s.line.groupA.length → waiting < 8 →
              exec .transmissionCompletion s = .next { gone with
                watch := { s.watch with owed := s.watch.owed ++ [drained] }, store := finished })
            ∧ (4 ≤ s.line.groupA.length → 8 ≤ waiting → ¬ s.ctrl.setup.fatal .txDropped →
              exec .transmissionCompletion s = .next { record .txDropped left with store := finished }))))

/-! ### The stitch unit (chapter 7) -/

/-- The ownership rule: a bin that no peer entry names is kept; against the first entry that names it, a bin is won or lost by the higher
quality, at equal quality by the higher count, and at equal counts by the lower station number. So for a bin that two stations hold, each
with the other's entry for it, one finds it won and the other lost. An edge applied compares the bins of its side's zone and no others,
with an empty peer list under the gap flag: won sets CONTESTED, lost sets CEDED, kept sets nothing; no mark is cleared, no other field of a
bin record changes, the side is SETTLED, and the ceded count stays the number of CEDED records (R122, R125, R126, R127, R128). -/
def Obligations.OwnershipDecidesOnce : Prop :=
  (∀ (own other : Nat) (entries : List EdgeEntry) (b : BinRecord),
      ((∀ e ∈ entries, e.bin ≠ b.bin) → ownership own other entries b = .kept)
      ∧ ∀ (before after : List EdgeEntry) (e : EdgeEntry),
          entries = before ++ e :: after → (∀ d ∈ before, d.bin ≠ b.bin) → e.bin = b.bin →
          (e.qBest < b.qBest → ownership own other entries b = .won)
          ∧ (b.qBest < e.qBest → ownership own other entries b = .lost)
          ∧ (b.qBest = e.qBest → e.nLast < b.nLast → ownership own other entries b = .won)
          ∧ (b.qBest = e.qBest → b.nLast < e.nLast → ownership own other entries b = .lost)
          ∧ (b.qBest = e.qBest → b.nLast = e.nLast → own < other → ownership own other entries b = .won)
          ∧ (b.qBest = e.qBest → b.nLast = e.nLast → other ≤ own → ownership own other entries b = .lost))
    ∧ (∀ (own other : Nat) (mine yours : BinRecord) (entries back : List EdgeEntry), own ≠ other → mine.bin = yours.bin →
      (entries.find? fun e => e.bin == mine.bin) = some ⟨yours.bin, yours.qBest, yours.nLast⟩ →
      (back.find? fun e => e.bin == yours.bin) = some ⟨mine.bin, mine.qBest, mine.nLast⟩ →
      (ownership own other entries mine = .won ∧ ownership other own back yours = .lost)
        ∨ (ownership own other entries mine = .lost ∧ ownership other own back yours = .won))
    ∧ ∀ (u : Setup) (own : Nat) (sd : Side) (e : PeerEdge) (r : SectionRecord),
        r.summary.cededCount = (r.bins.filter fun b => b.ceded).length →
        let q := r.applyEdge u own sd e
        q = { r with
          bins := q.bins
          summary := { r.summary with cededCount := (q.bins.filter fun b => b.ceded).length }
          leftSide := if sd = .left then .settled else r.leftSide
          rightSide := if sd = .right then .settled else r.rightSide }
        ∧ q.bins.length = r.bins.length
        ∧ ∀ (i : Nat) (b c : BinRecord), r.bins[i]? = some b → q.bins[i]? = some c →
            (u.inZone sd b.bin = false → c = b)
            ∧ (u.inZone sd b.bin = true → ∀ other : Nat, u.neighbour sd = some other →
                let decided := ownership own other (if e.gap then [] else e.entries) b
                (decided = .kept → c = b)
                ∧ (decided = .won → c = { b with contested := true })
                ∧ (decided = .lost → c = { b with ceded := true }))

/-- EDGE by the side it belongs to and the record it meets: oversized, wrongly sided, unmatched, duplicate and late edges record
EDGE_UNMATCHED; one for a SWEEPING record is held; one for the AWAITED side of a HELD record is applied, and the record becomes READY when
no side is AWAITED any more, and reports if it is the oldest (R96, R118 to R123). That an edge whose sender is no neighbour any more is
discarded and recorded is the model's choice (log 27). -/
def Obligations.EdgeHandled : Prop :=
  ∀ (x : Received) (rest : List Received) (s : State), s.resetAsserted = false → s.line.queue = x :: rest → x.kind = .edge →
    (s.ctrl.station = .run ∨ s.ctrl.station = .halted) → 5 ≤ x.payload.length → x.payload.length = 5 + 4 * byteAt x.payload 4 →
    let u := s.ctrl.setup
    let code := byteAt x.payload 3 % 4
    let discarded : Host.Outcome State Fault Refusal := .next (record .edgeUnmatched (s.withQueue rest))
    (32 < byteAt x.payload 4 → exec .edge s = discarded)
    ∧ (code = 3 → exec .edge s = discarded)
    ∧ (u.neighbour .left = some x.sender → code = 0 → exec .edge s = discarded)
    ∧ (u.neighbour .left ≠ some x.sender → u.neighbour .right = some x.sender → code = 1 → exec .edge s = discarded)
    ∧ (u.neighbour .left ≠ some x.sender → u.neighbour .right ≠ some x.sender → exec .edge s = discarded)
    ∧ (s.store.find (word24At x.payload 0) = none → exec .edge s = discarded)
    ∧ ∀ (sd : Side) (r : SectionRecord), byteAt x.payload 4 ≤ 32 → s.store.find (word24At x.payload 0) = some r →
        ((sd = .left ∧ u.neighbour .left = some x.sender ∧ (code = 1 ∨ code = 2))
          ∨ (sd = .right ∧ u.neighbour .left ≠ some x.sender ∧ u.neighbour .right = some x.sender ∧ (code = 0 ∨ code = 2))) →
        ((r.state = .ready ∨ r.state = .sending) → exec .edge s = discarded)
        ∧ (r.state = .sweeping → (r.heldEdge sd).isSome = true → exec .edge s = discarded)
        ∧ (r.state = .held → r.side sd ≠ .awaited → exec .edge s = discarded)
        ∧ (r.state = .sweeping → r.heldEdge sd = none →
            exec .edge s = .next { s.withQueue rest with store := { s.store with records := s.store.records.map fun q =>
              if q.number = r.number then
                (match sd with
                  | .left => { q with leftEdge := some (readPeerEdge x.payload) }
                  | .right => { q with rightEdge := some (readPeerEdge x.payload) })
              else q } })
        ∧ (r.state = .held → r.side sd = .awaited →
            exec .edge s = .next (startReport { s.withQueue rest with store := { s.store with
              records := s.store.records.map fun q =>
                if q.number = r.number then
                  (let applied := q.applyEdge u s.ctrl.ownNumber.toNat sd (readPeerEdge x.payload)
                   if applied.leftSide = .awaited ∨ applied.rightSide = .awaited then applied
                   else { applied with state := .ready, windowTimer := false })
                else q } }))

/-! ### The watch unit (chapter 8) -/

/-- The spans of a section with an ascending bin list: each runs from an INTRUSION bin up to an INTRUSION bin, two spans are at least 3
apart, every INTRUSION bin lies in one, within a span each INTRUSION bin but the last is followed by one at most 2 above it, and a span's
clearance is the lowest c_min among its INTRUSION bins. The groups hold every span once, and with the unmatched records every local record
once; a group's range is exactly that of its members, no other group and no unmatched record is near it, and without a local record
it holds one span. The id tried first is the counter's, and those passed over are carried by live records. And the evaluation at the
completion of a sweep: a span alone creates a PENDING record, confirmed at CONFIRM or where a peer span intersects, under the next id and
with a RAISE; in a full table WATCH_FULL is recorded and nothing created; a record matched takes in the span, and counts or is RAISED
again; one not matched is held, removed, eased or ended by its viewed bins; of two matched together the lower id is kept with the joint
values, and the other's END is produced; with its RAISE still owed, that RAISE is withdrawn as TX_DROPPED instead. A telegram that finds group
A full is owed; and the peer records age (R135 to R144, R147, R149). -/
def Obligations.SpansOfSection : Prop :=
  (∀ bins : List BinRecord, bins.Pairwise (fun x y => x.bin < y.bin) →
    (∀ b ∈ bins, b.intrusion = true → b.cMin.isSome = true) →
    let spans := spansOf bins
    spans.Pairwise (fun p q => p.last + 3 ≤ q.first)
      ∧ (∀ p ∈ spans, p.first ≤ p.last ∧ (∃ b ∈ bins, b.intrusion = true ∧ b.bin = p.first)
          ∧ (∃ b ∈ bins, b.intrusion = true ∧ b.bin = p.last))
      ∧ (∀ b ∈ bins, b.intrusion = true → ∃ p ∈ spans, p.first ≤ b.bin ∧ b.bin ≤ p.last)
      ∧ (∀ p ∈ spans, (∃ b ∈ bins, b.intrusion = true ∧ p.first ≤ b.bin ∧ b.bin ≤ p.last ∧ b.cMin = some p.clearance)
          ∧ ∀ b ∈ bins, b.intrusion = true → p.first ≤ b.bin → b.bin ≤ p.last → ∀ c, b.cMin = some c → p.clearance ≤ c)
      ∧ (∀ p ∈ spans, ∀ b ∈ bins, b.intrusion = true → p.first ≤ b.bin → b.bin < p.last →
          ∃ c ∈ bins, c.intrusion = true ∧ b.bin < c.bin ∧ c.bin ≤ b.bin + 2))
  ∧ (∀ (spans : List Span) (locals : List LocalRecord), spans.Pairwise (fun p q => p.last + 3 ≤ q.first) →
    (∀ p ∈ spans, p.first ≤ p.last) → (∀ x ∈ locals, x.first ≤ x.last) →
    let groups := (gatherGroups spans.length spans locals).1
    let unmatched := (gatherGroups spans.length spans locals).2
    let far := fun a b c d : Nat => b + 2 < c ∨ d + 2 < a
    (groups.flatMap (·.spans)).Perm spans ∧ (groups.flatMap (·.locals) ++ unmatched).Perm locals
      ∧ groups.Pairwise (fun g h => far g.first g.last h.first h.last)
      ∧ ∀ g ∈ groups,
          (∀ p ∈ g.spans, g.first ≤ p.first ∧ p.last ≤ g.last) ∧ (∀ x ∈ g.locals, g.first ≤ x.first ∧ x.last ≤ g.last)
          ∧ ((∃ p ∈ g.spans, p.first = g.first) ∨ ∃ x ∈ g.locals, x.first = g.first)
          ∧ ((∃ p ∈ g.spans, p.last = g.last) ∨ ∃ x ∈ g.locals, x.last = g.last)
          ∧ (∀ x ∈ unmatched, far g.first g.last x.first x.last)
          ∧ (g.locals = [] → g.spans.length = 1))
  ∧ (∀ w : Watch, w.locals.length ≤ 16 → ∃ n : Nat, n ≤ 16 ∧ w.freeId = some ((w.idCounter + n) % 256)
      ∧ (∀ x ∈ w.locals, x.id ≠ some ((w.idCounter + n) % 256))
      ∧ ∀ m : Nat, m < n → ∃ x ∈ w.locals, x.id = some ((w.idCounter + m) % 256))
  ∧ ∀ (s : State) (k : Nat) (r : SectionRecord), Completing s k r →
      s.line.groupB.length + (gapEdges s.ctrl.setup r.number).length ≤ 8 →
      let w := s.ctrl.setup.watchItem
      let peers := (s.watch.peers.map fun p => { p with age := p.age - 1 }).filter fun p => decide (0 < p.age)
      let seen := fun x : LocalRecord => s.watch.peers.any fun p => decide (max x.first p.first ≤ min x.last p.last)
      let alert := fun (x : LocalRecord) (id : Nat) (isEnd : Bool) => (⟨31, .alert
        { isEnd := isEnd, corroborated := x.corroborated, id := id, spanFirst := x.first, spanLast := x.last
          firstSection := x.firstSection, currentSection := r.number, minClearance := x.minClearance
          lastSection := x.lastSection }⟩ : Telegram)
      let full := decide (4 ≤ s.line.groupA.length)
      let queued := fun t : Telegram => if full then s.line.groupA else s.line.groupA ++ [t]
      let owing := fun t : Telegram => if full then s.watch.owed ++ [t] else s.watch.owed
      let leaves := fun (x : Watch) (groupA : List Telegram) (recorder : Recorder) =>
        ∃ t : State, exec .gapExpiry s = .next t ∧ t.watch = x ∧ t.line.groupA = groupA ∧ t.recorder = recorder
      let counted := fun x : LocalRecord =>
        if (if seen x then 1 else w.confirm) ≤ x.confirm then
          (let id := s.watch.idCounter % 256
           let y := { x with state := .raised, id := some id, corroborated := x.corroborated || seen x }
           leaves { locals := [{ y with owed := x.owed || full }], peers := peers, idCounter := (id + 1) % 256
                    owed := owing (alert y id false) } (queued (alert y id false)) s.recorder)
        else leaves { s.watch with locals := [x], peers := peers } s.line.groupA s.recorder
      let dropped := (record .txDropped s).recorder
      (∀ p : Span, spansOf r.bins = [p] → s.watch.locals = [] →
        (s.watch.peers.length < 16 → counted
          { first := p.first, last := p.last, state := .pending, confirm := 1, clearCount := 0, minClearance := p.clearance
            firstSection := r.number, lastSection := r.number, id := none, corroborated := false, owed := false })
        ∧ (16 ≤ s.watch.peers.length → ¬ s.ctrl.setup.fatal .watchFull →
          leaves { s.watch with peers := peers } s.line.groupA (record .watchFull s).recorder))
      ∧ (∀ (p : Span) (x : LocalRecord), spansOf r.bins = [p] → s.watch.locals = [x] → p.first ≤ x.last + 2 → x.first ≤ p.last + 2 →
        let y := { x with first := min x.first p.first, last := max x.last p.last, clearCount := 0
                          minClearance := min x.minClearance p.clearance, lastSection := r.number }
        (x.state = .pending → counted { y with confirm := x.confirm + 1 })
        ∧ (x.state ≠ .pending →
          leaves { s.watch with locals := [{ y with state := .raised, corroborated := x.corroborated || seen y }], peers := peers }
            s.line.groupA s.recorder))
      ∧ (∀ x : LocalRecord, spansOf r.bins = [] → s.watch.locals = [x] →
        let viewed := r.bins.filterMap fun b => if x.first ≤ b.bin ∧ b.bin ≤ x.last then b.cMin else none
        let count := if x.state = .raised then 1 else x.clearCount + 1
        let held := leaves { s.watch with peers := peers } s.line.groupA s.recorder
        let gone : Watch := { s.watch with locals := [], peers := peers }
        (viewed = [] → held)
        ∧ (viewed ≠ [] → x.state = .pending → leaves gone s.line.groupA s.recorder)
        ∧ ((∃ c ∈ viewed, c < (w.hyst : Int)) → x.state ≠ .pending → held)
        ∧ (viewed ≠ [] → (∀ c ∈ viewed, (w.hyst : Int) ≤ c) → x.state ≠ .pending →
          (count < w.clearCount →
            leaves { s.watch with locals := [{ x with state := .easing, clearCount := count }], peers := peers } s.line.groupA s.recorder)
          ∧ (w.clearCount ≤ count → ∀ id : Nat, x.id = some id →
            (x.owed = false → leaves { gone with owed := owing (alert x id true) } (queued (alert x id true)) s.recorder)
            ∧ (x.owed = true → ¬ s.ctrl.setup.fatal .txDropped →
              leaves { gone with owed := s.watch.owed.filter fun t => !t.isRaiseOf id } s.line.groupA dropped))))
      ∧ ∀ (p : Span) (x y : LocalRecord), spansOf r.bins = [p] → (s.watch.locals = [x, y] ∨ s.watch.locals = [y, x]) →
        p.first ≤ x.last + 2 → x.first ≤ p.last + 2 → p.first ≤ y.last + 2 → y.first ≤ p.last + 2 →
        let joint := { x with
          first := min (min x.first y.first) p.first, last := max (max x.last y.last) p.last
          confirm := max x.confirm y.confirm, clearCount := 0
          minClearance := min (min x.minClearance y.minClearance) p.clearance
          firstSection := min x.firstSection y.firstSection, lastSection := r.number
          corroborated := x.corroborated || y.corroborated }
        let kept : Watch := { s.watch with
          locals := [{ joint with state := .raised, corroborated := joint.corroborated || seen joint }], peers := peers }
        (x.id = none → y.id = none → x.state = .pending → y.state = .pending → x.first < y.first →
          counted { joint with confirm := max x.confirm y.confirm + 1 })
        ∧ ∀ i : Nat, x.id = some i → x.state ≠ .pending →
          (y.id = none → leaves kept s.line.groupA s.recorder)
          ∧ ∀ j : Nat, y.id = some j → i < j →
            (y.owed = false → leaves { kept with owed := owing (alert y j true) } (queued (alert y j true)) s.recorder)
            ∧ (y.owed = true → ¬ s.ctrl.setup.fatal .txDropped →
              leaves { kept with owed := s.watch.owed.filter fun t => !t.isRaiseOf j } s.line.groupA dropped)

/-- ALERT_RAISE refreshes the peer record of its source and id, or creates one where its span meets the coverage range widened by GUARD
and the table has room, and corroborates the RAISED local records it intersects; ALERT_END removes the peer record of its source and id,
and nothing else (R145, R146). -/
def Obligations.PeerAlerts : Prop :=
  ∀ (x : Received) (rest : List Received) (s : State), s.resetAsserted = false → s.line.queue = x :: rest → x.kind = .alert →
    (s.ctrl.station = .run ∨ s.ctrl.station = .halted) → x.payload.length = 17 →
    let a := readAlert x.payload
    let u := s.ctrl.setup
    let raised : List LocalRecord := s.watch.locals.map fun r =>
      if r.state = .raised ∧ max r.first a.spanFirst ≤ min r.last a.spanLast then { r with corroborated := true } else r
    (a.isEnd = true →
      exec .alertEnd s = .next { s.withQueue rest with watch := { s.watch with
        peers := s.watch.peers.filter fun p => !decide (p.source = x.sender ∧ p.id = a.id) } })
    ∧ (a.isEnd = false → a.spanLast < a.spanFirst → exec .alertRaise s = .next (s.withQueue rest))
    ∧ (a.isEnd = false → a.spanFirst ≤ a.spanLast → (∃ p ∈ s.watch.peers, p.source = x.sender ∧ p.id = a.id) →
      exec .alertRaise s = .next { s.withQueue rest with watch := { s.watch with
        locals := raised
        peers := s.watch.peers.map fun p => if p.source = x.sender ∧ p.id = a.id then
          { p with first := a.spanFirst, last := a.spanLast, age := u.watchItem.peerAge } else p } })
    ∧ (a.isEnd = false → a.spanFirst ≤ a.spanLast → (∀ p ∈ s.watch.peers, ¬ (p.source = x.sender ∧ p.id = a.id)) →
      ∀ z : Zones, u.zones = some z →
      let meets : Prop := max (a.spanFirst : Int) ((z.coverage.lo : Int) - u.watchItem.guard)
        ≤ min (a.spanLast : Int) ((z.coverage.hi : Int) + u.watchItem.guard)
      (¬ meets → exec .alertRaise s = .next { s.withQueue rest with watch := { s.watch with locals := raised } })
      ∧ (meets → s.watch.locals.length + s.watch.peers.length < 16 →
        exec .alertRaise s = .next { s.withQueue rest with watch := { s.watch with
          locals := raised
          peers := s.watch.peers ++ [⟨x.sender, a.id, a.spanFirst, a.spanLast, u.watchItem.peerAge⟩] } })
      ∧ (meets → 16 ≤ s.watch.locals.length + s.watch.peers.length → ¬ u.fatal .watchFull →
        exec .alertRaise s = .next
          (let t := record .watchFull (s.withQueue rest)
           { t with watch := { s.watch with locals := raised } })))

/-! ### The trolley line (chapter 9) -/

/-- LINE_IDLE ends a wait in IDLE_WAIT: the receiver is IDLE, a judgement ends, and the head of the highest non-empty group in the group
order begins transmission; and the orders of the codes. A telegram joins the end of its group; where it enters an empty group while the
receiver is IDLE and the station neither transmits nor drives a break, this too is an offer, of the head of the highest non-empty group as it
then is. What the station drives is the telegram bit by bit, each bit with a transition at its middle and its value in its second half;
and of several stations that send their contention fields at once, the line carries the lowest (R154, R155, R156, R161, R162, R163). That
nothing is offered while the station drives a break is log 11. -/
def Obligations.LineIdleOffers : Prop :=
  (∀ s : State, s.resetAsserted = false → s.line.rx = .idleWait → s.line.breakSend = false → s.line.tx = none →
      (s.line.groupA = [] → s.line.groupB = [] → s.line.groupC = [] →
        exec .lineIdle s = .next { s with line := { s.line with rx := .idle, judging := false } })
      ∧ ∀ (before after : List TxGroup) (g : TxGroup) (t : Telegram) (rest : List Telegram),
          s.ctrl.setup.groupOrder = before ++ g :: after → (∀ h ∈ before, s.line.group h = []) → s.line.group g = t :: rest →
          exec .lineIdle s = .next { s with line := { s.line with
            rx := .idle, judging := false, tx := some ⟨g, frameOf s.ctrl.ownNumber t, false⟩ } })
    ∧ (∀ (g : TxGroup) (t : Telegram) (s : State),
        let l : Line := match g with
          | .a => { s.line with groupA := s.line.groupA ++ [t] }
          | .b => { s.line with groupB := s.line.groupB ++ [t] }
          | .c => { s.line with groupC := s.line.groupC ++ [t] }
        ((s.line.group g ≠ [] ∨ s.line.rx ≠ .idle ∨ s.line.tx ≠ none ∨ s.line.breakSend = true) → enqueue g t s = { s with line := l })
        ∧ (s.line.group g = [] → s.line.rx = .idle → s.line.tx = none → s.line.breakSend = false →
          ∀ (before after : List TxGroup) (h : TxGroup) (x : Telegram) (rest : List Telegram),
            s.ctrl.setup.groupOrder = before ++ h :: after → (∀ j ∈ before, l.group j = []) → l.group h = x :: rest →
            enqueue g t s = { s with line := { l with tx := some ⟨h, frameOf s.ctrl.ownNumber x, false⟩ } }))
    ∧ (∀ u : Setup, u.line = none → u.groupOrder = [.a, .b, .c])
    ∧ (∀ (u : Setup) (l : LineItem), u.line = some l →
        ((l.orderCode = 0 ∨ 6 ≤ l.orderCode) → u.groupOrder = [.a, .b, .c])
          ∧ (l.orderCode = 1 → u.groupOrder = [.a, .c, .b]) ∧ (l.orderCode = 2 → u.groupOrder = [.b, .a, .c])
          ∧ (l.orderCode = 3 → u.groupOrder = [.b, .c, .a]) ∧ (l.orderCode = 4 → u.groupOrder = [.c, .a, .b])
          ∧ (l.orderCode = 5 → u.groupOrder = [.c, .b, .a]))
    ∧ (∀ (l : Line) (x : Transmission), l.tx = some x → l.breakSend = false →
        l.drives.map (·.second) = x.frame.bits.map (fun b => if b then .recessive else .dominant)
          ∧ ∀ h ∈ l.drives, h.first ≠ h.second)
    ∧ ∀ (fields : List (BitVec 7)) (v : BitVec 7), v ∈ fields → (∀ w ∈ fields, v.toNat ≤ w.toNat) →
        contend 8 (fields.map fun w => false :: bitsOf w) = false :: bitsOf v

/-- FIRST_TRANSITION begins a reception under the LINE_TIMEOUT in force. HEADER_END, by the first test that holds: followed as readback,
rejected with DUP_STATION, rejected, or kept. QUIET_SPELL abandons a reception with RX_QUIET when the stretch is long enough and no
break (R156, R157, R158). -/
def Obligations.Reception : Prop :=
  ∀ s : State, s.resetAsserted = false →
    (s.line.rx = .idle →
      exec .firstTransition s = .next { s with line := { s.line with
        rx := .receiving (match s.ctrl.setup.line with
          | some l => l.timeout
          | none => 48) none } })
    ∧ (∀ (h : Header) (timeout : Nat), s.line.rx = .receiving timeout none →
        let away : State := { s with line := { s.line with rx := .idleWait } }
        let kindKept : Prop := ∃ k, Kind.ofCode h.kind = some k ∧ s.ctrl.station.accepts k = true
          ∧ (k = .edge → s.ctrl.setup.neighbour .left = some h.sender.toNat ∨ s.ctrl.setup.neighbour .right = some h.sender.toNat)
        (s.line.tx.isSome = true → exec (.headerEnd h) s = .next s)
        ∧ (s.line.tx = none → h.sender = s.ctrl.ownNumber → exec (.headerEnd h) s = .next (record .dupStation away))
        ∧ (s.line.tx = none → h.sender ≠ s.ctrl.ownNumber → h.target.toNat ≠ s.ctrl.ownNumber.toNat → h.target.toNat ≠ 31 →
            exec (.headerEnd h) s = .next away)
        ∧ (s.line.tx = none → h.sender ≠ s.ctrl.ownNumber → ¬ kindKept → exec (.headerEnd h) s = .next away)
        ∧ (s.line.tx = none → h.sender ≠ s.ctrl.ownNumber → (h.target.toNat = s.ctrl.ownNumber.toNat ∨ h.target.toNat = 31) →
            kindKept → exec (.headerEnd h) s = .next { s with line := { s.line with rx := .receiving timeout (some h) } }))
    ∧ ∀ (dominant : Bool) (bits timeout : Nat) (kept : Option Header), s.line.rx = .receiving timeout kept → s.line.tx = none →
        ((timeout ≤ bits ∧ (dominant = true → bits < 24)) →
          exec (.quietSpell dominant bits) s = .next (record .rxQuiet { s with line := { s.line with rx := .idleWait } }))
        ∧ (¬ (timeout ≤ bits ∧ (dominant = true → bits < 24)) → exec (.quietSpell dominant bits) s = .next s)

/-- CHECK_SEQUENCE_END of a kept telegram: discarded as RX_CHECK on a failed check, as RX_OVERRUN with the receive queue full, and
appended to the queue otherwise; the receiver goes to IDLE_WAIT in every case (R159, R160). -/
def Obligations.CheckSequenceEnds : Prop :=
  ∀ (s : State) (timeout : Nat) (h : Header) (k : Kind) (payload : List Byte) (check : BitVec 16), s.resetAsserted = false →
    s.line.rx = .receiving timeout (some h) → Kind.ofCode h.kind = some k → payload.length = h.length.toNat →
    let away : State := { s with line := { s.line with rx := .idleWait } }
    (check ≠ checkSequence h payload → exec (.checkSequenceEnd payload check) s = .next (record .rxCheck away))
    ∧ (check = checkSequence h payload → 4 ≤ s.line.queue.length →
        exec (.checkSequenceEnd payload check) s = .next (record .rxOverrun away))
    ∧ (check = checkSequence h payload → s.line.queue.length < 4 →
        exec (.checkSequenceEnd payload check) s = .next { s with line := { s.line with
          rx := .idleWait, queue := s.line.queue ++ [⟨h.sender.toNat, h.target.toNat, k, payload⟩] } })

/-- A single wrong bit among the target, kind, length and payload of a telegram changes its check sequence, so the check fails: the
register after bits that differ in one place differs. A bit that enters shifts the register, and combines it with hex 1021 where it differs
from the register's most significant bit. The bits of a telegram, start bit first, are its fields in the order of R155, most significant
bit first; and its check sequence is the register, from all ones, after those from the first bit of the target to the last of the
payload (R155, R159, R189). -/
def Obligations.SingleBitErrorFailsCheck : Prop :=
  (∀ (before after : List Bool) (bit : Bool) (start : BitVec 16),
    (before ++ bit :: after).foldl checkStep start ≠ (before ++ (!bit) :: after).foldl checkStep start)
  ∧ (∀ (reg : BitVec 16) (bit : Bool),
      (checkStep reg bit).toNat = Nat.xor (2 * reg.toNat % 65536) (if bit = decide (32768 ≤ reg.toNat) then 0 else 0x1021))
  ∧ ∀ f : Frame,
      let field : Nat → Nat → List Bool := fun width v => (List.range width).map fun i => v.testBit (width - 1 - i)
      let h := f.header
      f.bits = [false] ++ field 3 h.cls.toNat ++ field 4 h.sender.toNat ++ field 5 h.target.toNat ++ field 4 h.kind.toNat
          ++ field 8 h.length.toNat ++ (f.payload.flatMap fun b => field 8 b.toNat) ++ field 16 f.check.toNat
        ∧ f.bits.length = 41 + 8 * f.payload.length
        ∧ checkSequence h f.payload = ((f.bits.drop 8).take (17 + 8 * f.payload.length)).foldl checkStep 0xFFFF#16

/-- CONTENTION_LOST, READBACK_MISMATCH and READBACK_TRANSITION: the station stops driving and the telegram stays in its group, unless
RESTART has condemned it; a mismatch is judged, and a transition then records DUP_STATION (R162, R163, R167). That a receiver of a lost
contention is in RECEIVING is log 12. -/
def Obligations.TransmissionLost : Prop :=
  ∀ s : State, s.resetAsserted = false →
    (∀ x : Transmission, s.line.tx = some x → x.condemned = false →
      exec .contentionLost s = .next { s with line := { s.line with
        tx := none
        rx := match s.line.rx with
          | .receiving timeout kept => .receiving timeout kept
          | .idle | .idleWait => .receiving s.ctrl.setup.lineTimeout none } }
      ∧ exec .readbackMismatch s = .next { s with line := { s.line with tx := none, rx := .idleWait, judging := true } })
    ∧ (∀ x : Transmission, s.line.tx = some x → x.condemned = true → x.group = .c →
      exec .readbackMismatch s = .next { s with line := { s.line with
        tx := none, rx := .idleWait, judging := true, groupC := s.line.groupC.tail } })
    ∧ (s.line.judging = true →
      exec .readbackTransition s = .next (record .dupStation { s with line := { s.line with judging := false } }))
    ∧ (s.line.judging = false → exec .readbackTransition s = .next s)

/-- LOCAL_STOP and BREAK_DETECTED in RUN halt the station, and what they leave of each block. LOCAL_STOP drives the break, which
BREAK_SEND_END ends; BREAK_DETECTED ends any reception and judgement. A transmission is abandoned; its telegram stays, or leaves its group if
RESTART condemned it (a slot of group A is then filled as ever: log 10). The section in flight is gone, its gap-before count plus 1 and its
reasons with HALT in the gap accumulator; every other record stays, each HELD one closed as a window closes it, and the oldest reports if it
is READY; the discard of the last marked record completes the drain. Of the local watch records the PENDING ones are removed, the others
kept with all their fields; all else is kept. Outside RUN the station state stays (R13, R32, R46, R47, R76, R100, R106, R150, R165, R166,
R167, R176). -/
def Obligations.BreaksHalt : Prop :=
  (∀ (c : Instr) (s : State), s.resetAsserted = false → s.ctrl.station = .run → (c = .localStop ∨ c = .breakDetected) →
      (s.seq.sweep = .idle → ∀ r ∈ s.store.records, r.state ≠ .sweeping) →
      let freed := fun g : TxGroup => s.line.tx.any fun x => x.condemned && decide (x.group = g)
      let left := fun g : TxGroup => if freed g then (s.line.group g).tail else s.line.group g
      let refill := if freed .a then s.watch.owed.take 1 else []
      let owed := s.watch.owed.drop refill.length
      let groupA := left .a ++ refill
      let announced := fun r : LocalRecord =>
        if refill.any (fun t => r.id.any fun id => t.isRaiseOf id) then { r with owed := false } else r
      let swept := s.store.records.filter fun r => decide (r.state = .sweeping)
      let kept := (s.store.records.filter fun r => decide (r.state ≠ .sweeping)).map fun r =>
        if r.state = .held then r.close s.ctrl.setup else r
      let completes := swept.any (fun r => r.summary.drainMark) && kept.all fun r => !r.summary.drainMark
      let drained : List Telegram :=
        if completes then s.store.drainRequester.toList.map fun q => ⟨q, .drained s.store.drainTarget⟩ else []
      let full := decide (4 ≤ groupA.length)
      let dropped := full && !drained.isEmpty && decide (8 ≤ (owed.filter Telegram.isDrained).length)
      let reports := kept.take 1 |>.filter fun r => decide (r.state = .ready)
      let entered := fun r : SectionRecord => min r.partCount (8 - (left .c).length)
      let gone := fun f : GapReasons → Bool => f s.store.gapReasons || swept.any fun r => f r.summary.gapReasons
      (dropped = true → ¬ s.ctrl.setup.fatal .txDropped) →
      exec c s = .next { s with
        ctrl := { s.ctrl with station := .halted }
        seq := if s.seq.sweep = .idle then s.seq
               else { s.seq with groups := [], sweep := .idle, fixed := none, rows := 0, cols := 0 }
        echo := if s.seq.sweep = .idle then s.echo else { acceptance := none, geometry := none }
        conv := { s.conv with scan :=
          if s.seq.sweep ≠ .idle ∧ s.conv.scan = .sectionScan then .periodic else s.conv.scan }
        store := {
          records := (reports.map fun r => { r with state := .sending, partsQueued := entered r }) ++ kept.drop reports.length
          gapCount := s.store.gapCount + (swept.map fun r => r.summary.gapBefore + 1).sum
          gapReasons := { halt := gone (·.halt) || !swept.isEmpty, hot := gone (·.hot), busy := gone (·.busy)
                          storeFull := gone (·.storeFull) }
          drainPending := s.store.drainPending && !completes
          drainTarget := if completes then none else s.store.drainTarget
          drainRequester := if completes then none else s.store.drainRequester }
        watch := { s.watch with
          locals := (s.watch.locals.map announced).filter fun r => decide (r.state ≠ .pending)
          owed := if full && !dropped then owed ++ drained else owed }
        line := { s.line with
          groupA := if full then groupA else groupA ++ drained
          groupB := left .b
          groupC := left .c ++ reports.flatMap fun r => (List.range (entered r)).map fun i => ⟨31, .report (r.part i)⟩
          tx := none
          breakSend := s.line.breakSend || decide (c = .localStop)
          rx := if c = .breakDetected then .idleWait else s.line.rx
          judging := s.line.judging && decide (c ≠ .breakDetected) }
        recorder := if dropped then (record .txDropped s).recorder else s.recorder })
    ∧ (∀ s : State, s.resetAsserted = false → s.ctrl.station ≠ .run →
        exec .localStop s = .next s
          ∧ ((∀ x ∈ s.line.tx, x.condemned = false) →
              exec .breakDetected s = .next { s with line := { s.line with tx := none, rx := .idleWait, judging := false } }))
    ∧ ∀ s : State, s.resetAsserted = false →
        exec .breakSendEnd s = .next { s with line := { s.line with breakSend := false } }

/-! ### Station control and the fault recorder (chapters 10 and 11) -/

/-- SETUP in CONFIG stores its item, marks it, and records nothing; the first item 30 starts the scan interval; an item number that names
no item, and any SETUP in RUN or HALTED, is refused and stores nothing. The record lengths of the items; and the setup that storing an item
leaves: every field a big-endian number of its width from its offset, two's complement where signed, brought into its range, with the values
that a code naming none takes; all other items as they were (R18, R74, R97, R171, R172, R190, R191). That MOUNT, an element's angle,
TOF_MIN, AMP_LO and the exclusion angles, for which R172 gives no narrower range, are stored as they come is DEDUCED (log 20). -/
def Obligations.SetupHandled : Prop :=
  (∀ (x : Received) (rest : List Received) (s : State), s.resetAsserted = false → s.line.queue = x :: rest → x.kind = .setup →
    1 ≤ x.payload.length → (∀ n, itemLength (byteAt x.payload 0) = some n → x.payload.length = 1 + n) →
    let item := byteAt x.payload 0
    (s.ctrl.station = .config → 1 ≤ item → item ≤ 32 →
      exec .setup s = .next { s.withQueue rest with
        ctrl := { s.ctrl with
          setup := s.ctrl.setup.storeItem x.payload
          marks := s.ctrl.marks ||| BitVec.twoPow 32 (item - 1) }
        conv := { s.conv with intervalRunning := s.conv.intervalRunning || (decide (item = 30) && s.ctrl.setup.aux.isNone) } })
    ∧ (s.ctrl.station = .config → (item = 0 ∨ 32 < item) → exec .setup s = .next (record .setupRefused (s.withQueue rest)))
    ∧ ((s.ctrl.station = .run ∨ s.ctrl.station = .halted) → exec .setup s = .next (record .setupRefused (s.withQueue rest))))
  ∧ (List.range 33).map itemLength = [none, some 13, some 14] ++ List.replicate 8 (some 40) ++ [some 6, some 17]
      ++ List.replicate 12 (some 10) ++ List.replicate 4 (some 4) ++ [some 8, some 18, some 2, some 16]
  ∧ (∀ item : Nat, 32 < item → itemLength item = none)
  ∧ ∀ (u : Setup) (p : List Byte), (∀ n, itemLength (byteAt p 0) = some n → p.length = 1 + n) →
    let item := byteAt p 0
    let number : Nat → Nat → Nat := fun off width => ((p.drop off).take width).foldl (fun v b => 256 * v + b.toNat) 0
    let signed : Nat → Nat → Int := fun off width =>
      if 2 * number off width < 256 ^ width then (number off width : Int) else (number off width : Int) - 256 ^ width
    let clamped := fun off width lo hi : Nat => max lo (min (number off width) hi)
    let clampedInt := fun (off width : Nat) (lo hi : Int) => max lo (min (signed off width) hi)
    let bit := fun off b : Nat => (number off 1).testBit b
    let range := fun off : Nat => (⟨clamped off 2 0 1023, clamped (off + 2) 2 0 1023⟩ : BinRange)
    let neighbour := fun off : Nat => if number off 1 ≤ 15 then some (number off 1) else none
    (item = 1 →
      let v : Survey :=
        { spacing := clamped 1 2 1 65535
          countMode := if number 3 1 = 0 then .x1 else if number 3 1 = 1 then .x2 else .x4
          tofMin := number 4 2, ks := clamped 6 3 360000 400000, dMin := clamped 9 2 100 20000, dMax := clamped 11 3 10000 300000 }
      u.storeItem p = { u with survey := some v })
    ∧ (item = 2 →
      let v : Head :=
        { mount := number 1 2, hx := clampedInt 3 3 (-100000) 100000, hy := clampedInt 6 3 (-100000) 100000
          gx := clampedInt 9 3 (-100000) 100000, gy := clampedInt 12 3 (-100000) 100000 }
      u.storeItem p = { u with head := some v })
    ∧ (∀ k : Fin 8, item = 3 + k.val →
      let v : Fin 8 → ElementCalib := fun j =>
        { angle := number (1 + 5 * j.val) 2, offset := clampedInt (3 + 5 * j.val) 2 (-5000) 5000
          enabled := bit (5 + 5 * j.val) 0, cls := if bit (5 + 5 * j.val) 1 then .long else .short }
      u.storeItem p = { u with calib := u.calib.set k.val (some (Vector.ofFn v)) k.isLt })
    ∧ (item = 11 →
      let v : SweepItem :=
        { dwellShort := clamped 1 1 1 255, dwellLong := clamped 2 1 1 255, gap := clamped 3 1 1 255, pairing := bit 4 0
          forwardSuspect := bit 4 1, ampLo := number 5 1, weakLimit := clamped 6 1 1 15 }
      u.storeItem p = { u with sweep := some v })
    ∧ (item = 12 →
      let v : Zones :=
        { left := neighbour 1, leftZone := range 2, right := neighbour 6, rightZone := range 7, coverage := range 11
          basis := if number 15 1 = 0 then .sections else .time
          window := clamped 16 2 1 (if number 15 1 = 0 then 32 else 1000) }
      u.storeItem p = { u with zones := some v })
    ∧ (∀ k : Fin 12, item = 13 + k.val →
      let v : Segment :=
        { b0 := clamped 1 2 0 1023, b1 := max (clamped 1 2 0 1023) (clamped 3 2 0 1023), rs := clamped 5 3 10000 300000
          re := clamped 8 3 10000 300000 }
      u.storeItem p = { u with envelope := u.envelope.set k.val (some v) k.isLt })
    ∧ (∀ k : Fin 4, item = 25 + k.val →
      u.storeItem p = { u with exclusion := u.exclusion.set k.val (some ⟨number 1 2, number 3 2⟩) k.isLt })
    ∧ (item = 29 →
      let v : WatchItem :=
        { confirm := clamped 1 1 1 8, clearCount := clamped 2 1 1 8, hyst := clamped 3 2 0 2000, warn := clamped 5 2 0 5000
          peerAge := clamped 7 1 1 255, guard := clamped 8 1 0 16 }
      u.storeItem p = { u with watch := some v })
    ∧ (item = 30 →
      let v : Aux :=
        { cantZero := clamped 1 2 0 4095, cantGain := clampedInt 3 2 (-4096) 4096, cantLim := clamped 5 2 0 2731
          supLo := clamped 7 2 0 4095, supHyst := clamped 9 2 0 4095, tempHi := clamped 11 2 0 4095, tempHyst := clamped 13 2 0 4095
          cantSettle := clamped 15 1 1 63, supSettle := clamped 16 1 1 63, tempSettle := clamped 17 1 1 63
          scanPeriod := clamped 18 1 1 255 }
      u.storeItem p = { u with aux := some v })
    ∧ (item = 31 → u.storeItem p = { u with line := some ⟨clamped 1 1 8 255, clamped 2 1 0 7⟩ })
    ∧ (item = 32 →
      let v : Fin 16 → KindPolicy := fun k =>
        { severity := if number (1 + k.val) 1 % 4 = 0 then .note else if number (1 + k.val) 1 % 4 = 1 then .degraded else .fatal
          masked := bit (1 + k.val) 7 }
      u.storeItem p = { u with faults := some (Vector.ofFn v) })

/-- RESTART in any state moves the station to CONFIG: thresholds dropped and numbering reset, the sweep ended, the converter idle with
its conditions clear, the store and the watch unit cleared, every queued telegram removed but the one being transmitted, the setup, the
element table, the envelope, the receive queue and the recorder's evidence kept (R14, R28, R48, R109, R151, R167, R178, R184). -/
def Obligations.RestartHandled : Prop :=
  ∀ (x : Received) (rest : List Received) (s : State), s.resetAsserted = false → s.line.queue = x :: rest → x.kind = .restart →
    x.payload = [] →
    let kept := fun g : TxGroup => match s.line.tx with
      | some t => if t.group = g then (s.line.group g).take 1 else []
      | none => []
    exec .restart s = .next { s with
      ctrl := { s.ctrl with station := .config }
      odo := { s.odo with base := none, nextThreshold := none, nextSection := 0, limitMark := false }
      seq := if s.seq.sweep = .idle then s.seq
             else { s.seq with groups := [], sweep := .idle, fixed := none, rows := 0, cols := 0 }
      echo := if s.seq.sweep = .idle then s.echo else { acceptance := none, geometry := none }
      conv := { scan := .idle, work := none, cant := 0, supplyWeak := false, overTemp := false
                intervalRunning := s.ctrl.setup.aux.isSome }
      store := { records := [], gapCount := 0, gapReasons := ⟨false, false, false, false⟩, drainPending := false,
                 drainTarget := none, drainRequester := none }
      watch := { locals := [], peers := [], idCounter := 0, owed := [] }
      line := { s.line with
        queue := rest, groupA := kept .a, groupB := kept .b, groupC := kept .c
        tx := s.line.tx.map fun t => { t with condemned := true } }
      recorder := { s.recorder with attention := s.recorder.firstError.isSome } }

/-- Recording a kind: seen and counted up to 65535, the other kinds as they were; masked or NOTE, nothing more; DEGRADED or FATAL, an
empty first-error record takes it and attention is asserted; FATAL outside FAULT, the station enters FAULT, drops its sections, groups B
and C, watch table and thresholds, and keeps its setup, P, the next number, group A and the element table (R14, R108, R151, R167, R177,
R181 to R185). -/
def Obligations.RecordingAKind : Prop :=
  ∀ (k : ErrKind) (s : State),
    let t := record k s
    let counted := s.recorder.kinds.set k.index.val ⟨true, min 65535 (s.recorder.kinds[k.index].count + 1)⟩ k.index.isLt
    let p := s.ctrl.setup.policy k
    t.recorder.kinds = counted
    ∧ ((p.masked = true ∨ p.severity = .note) → t = { s with recorder := { s.recorder with kinds := counted } })
    ∧ (p.masked = false → (p.severity = .degraded ∨ (p.severity = .fatal ∧ s.ctrl.station = .fault)) →
        t = { s with recorder := { kinds := counted, firstError := some (s.recorder.firstError.getD k), attention := true } })
    ∧ (p.masked = false → p.severity = .fatal → s.ctrl.station ≠ .fault →
        t.recorder = { kinds := counted, firstError := some (s.recorder.firstError.getD k), attention := true }
        ∧ t.ctrl = { s.ctrl with station := .fault }
        ∧ t.store.records = [] ∧ t.store.drainPending = false ∧ t.seq.sweep = .idle ∧ t.seq.table = s.seq.table
        ∧ t.line.groupA = s.line.groupA ∧ t.line.groupB = [] ∧ t.line.groupC = [] ∧ t.line.queue = s.line.queue
        ∧ t.watch = { locals := [], peers := [], idCounter := 0, owed := [] }
        ∧ t.odo = { s.odo with base := none, nextThreshold := none } ∧ t.env = s.env
        ∧ t.store.gapCount = s.store.gapCount + (s.store.records.map fun r => r.summary.gapBefore + 1).sum)

/-- CLEAR empties the named kinds, and the first-error record that names one of them, attention following; STATUS_REQ queues a STATUS of
the station as it stands in group A, or, with the group full, drops it as TX_DROPPED (R16, R184, R186, R187, R190). -/
def Obligations.ClearAndStatusReq : Prop :=
  ∀ (x : Received) (rest : List Received) (s : State), s.resetAsserted = false → s.line.queue = x :: rest →
    (x.kind = .clear → x.payload.length = 2 →
      let named := fun k : Fin 16 => (word16At x.payload 0).testBit k.val
      let first := s.recorder.firstError.filter fun k => !named k.index
      exec .clear s = .next { s.withQueue rest with recorder :=
        { kinds := Vector.ofFn fun k => if named k then ⟨false, 0⟩ else s.recorder.kinds[k]
          firstError := first
          attention := first.isSome || decide (s.ctrl.station = .fault) } })
    ∧ (x.kind = .statusReq → x.payload = [] → s.line.groupA.length < 4 →
      exec .statusReq s = .next (enqueue .a ⟨x.sender, .status
        { station := s.ctrl.station
          strap := s.ctrl.ownNumber
          firstError := s.recorder.firstError
          kinds := s.recorder.kinds
          occupancy := s.store.records.length
          watchInUse := s.watch.locals.length + s.watch.peers.length
          drainPending := s.store.drainPending
          newest := if s.odo.limitMark then some 16777215
            else if 0 < s.odo.nextSection then some (s.odo.nextSection - 1) else none
          oldest := s.store.records.head?.map (·.number)
          marks := s.ctrl.marks
          failingItem := s.ctrl.failingItem }⟩ (s.withQueue rest)))
    ∧ (x.kind = .statusReq → x.payload = [] → 4 ≤ s.line.groupA.length →
      exec .statusReq s = .next (record .txDropped (s.withQueue rest)))

/-- The handler tests the telegram it takes: a kind not accepted in the station state is discarded unrecorded, and a length its kind does
not admit is discarded as RX_CHECK (R158, R160, R190). ALERT telegrams are left out: which command takes one of such a
length is log 14. -/
def Obligations.HandlerTests : Prop :=
  ∀ (x : Received) (rest : List Received) (c : Instr) (s : State), s.resetAsserted = false → s.line.queue = x :: rest →
    (x.kind, c) ∈ ([(.setup, .setup), (.start, .start), (.restart, .restart), (.edge, .edge), (.statusReq, .statusReq),
      (.clear, .clear), (.drain, .drain)] : List (Kind × Instr)) →
    let admitted : Bool := match x.kind with
      | .clear => decide (x.payload.length = 2)
      | .edge => decide (5 ≤ x.payload.length ∧ x.payload.length = 5 + 4 * byteAt x.payload 4)
      | .setup => decide (1 ≤ x.payload.length ∧ ∀ n ∈ itemLength (byteAt x.payload 0), x.payload.length = 1 + n)
      | _ => decide (x.payload.length = 0)
    let accepted : Bool := match s.ctrl.station with
      | .config => decide (x.kind ∈ [Kind.setup, .start, .restart, .statusReq, .clear])
      | .run | .halted => decide (x.kind ∈ [Kind.start, .restart, .statusReq, .clear, .drain, .edge, .alert, .setup])
      | .fault => decide (x.kind ∈ [Kind.restart, .statusReq, .clear])
    (accepted = false → exec c s = .next (s.withQueue rest))
      ∧ (accepted = true → admitted = false → exec c s = .next (record .rxCheck (s.withQueue rest)))

/-! ### Layouts (chapter 12) -/

/-- An ALERT and an EDGE laid out by a sender are read back by a receiver with every field as it was, at an admitted length. Where every
telegram the station sends has its fields, byte by byte, in a payload of a length that follows: DRAINED, ALERT, EDGE, REPORT with its
summary in part 0 and its entries, and STATUS; every number most significant byte first, two's complement where signed, and every absent
value by its encoding. The numbers of the error kinds; the kinds the codes name; and the header a telegram is sent under (R155, R181,
R189, R190, R191). -/
def Obligations.AlertAndEdgeLayouts : Prop :=
  (∀ a : Alert, a.id ≤ 255 → a.spanFirst ≤ 65535 → a.spanLast ≤ 65535 → a.firstSection ≤ 16777215 → a.currentSection ≤ 16777215 →
      a.lastSection ≤ 16777215 → -32768 ≤ a.minClearance → a.minClearance ≤ 32767 →
      readAlert (layAlert a) = a ∧ lengthAdmitted .alert (layAlert a) = true)
    ∧ (∀ e : EdgeBody, e.number ≤ 16777215 → e.entries.length ≤ 32 →
        (∀ x ∈ e.entries, x.bin ≤ 65535 ∧ x.qBest ≤ 255 ∧ x.nLast ≤ 255) →
        word24At (layEdge e) 0 = e.number ∧ edgeSideAt (layEdge e) = some e.side
          ∧ readPeerEdge (layEdge e) = ⟨e.gap, e.entries⟩ ∧ byteAt (layEdge e) 4 = e.entries.length
          ∧ lengthAdmitted .edge (layEdge e) = true)
    ∧ (let number : List Byte → Nat → Nat → Nat := fun p off width => ((p.drop off).take width).foldl (fun v b => 256 * v + b.toNat) 0
      let signed : List Byte → Nat → Int := fun p off =>
        if number p off 2 < 32768 then (number p off 2 : Int) else (number p off 2 : Int) - 65536
      let bit : Bool → Nat → Nat := fun b v => if b then v else 0
      (∀ n : Option Nat, (∀ v ∈ n, v ≤ 16777215) →
        let p := layDrained n
        p.length = 4 ∧ number p 0 1 = bit n.isSome 1 ∧ number p 1 3 = n.getD 0)
      ∧ (∀ a : Alert, a.id ≤ 255 → a.spanFirst ≤ 65535 → a.spanLast ≤ 65535 → a.firstSection ≤ 16777215 →
        a.currentSection ≤ 16777215 → a.lastSection ≤ 16777215 → -32768 ≤ a.minClearance → a.minClearance ≤ 32767 →
        let p := layAlert a
        p.length = 17 ∧ number p 0 1 = bit a.isEnd 1 + bit a.corroborated 2 ∧ number p 1 1 = a.id ∧ number p 2 2 = a.spanFirst
          ∧ number p 4 2 = a.spanLast ∧ number p 6 3 = a.firstSection ∧ number p 9 3 = a.currentSection
          ∧ signed p 12 = a.minClearance ∧ number p 14 3 = a.lastSection)
      ∧ (∀ e : EdgeBody, e.number ≤ 16777215 → e.entries.length ≤ 32 →
        (∀ x ∈ e.entries, x.bin ≤ 65535 ∧ x.qBest ≤ 255 ∧ x.nLast ≤ 255) →
        let p := layEdge e
        let side := match e.side with
          | .left => 0
          | .right => 1
          | .both => 2
        p.length = 5 + 4 * e.entries.length ∧ number p 0 3 = e.number ∧ number p 3 1 = side + bit e.gap 128
          ∧ number p 4 1 = e.entries.length
          ∧ ∀ (i : Nat) (x : EdgeEntry), e.entries[i]? = some x →
              number p (5 + 4 * i) 2 = x.bin ∧ number p (7 + 4 * i) 1 = x.qBest ∧ number p (8 + 4 * i) 1 = x.nLast)
      ∧ (∀ r : ReportPart, r.number ≤ 16777215 → r.index ≤ 15 → r.count ≤ 15 → r.entries.length ≤ 26 →
        r.summary.isSome = decide (r.index = 0) →
        (∀ x ∈ r.entries, x.bin ≤ 1023 ∧ x.nLast ≤ 255 ∧ x.qBest ≤ 255 ∧ (∀ m ∈ x.meanRadius, m < 16777215)
          ∧ ∀ c ∈ x.cMin, -32768 < c ∧ c ≤ 32767) →
        let p := layReport r
        let base := if r.index = 0 then 20 else 5
        p.length = base + 9 * r.entries.length ∧ number p 0 3 = r.number ∧ number p 3 1 = 16 * r.index + r.count
          ∧ number p 4 1 = r.entries.length
          ∧ (∀ (m : Summary) (w : SweepSummary), r.summary = some m → m.sweep = some w → -32768 ≤ w.cant → w.cant ≤ 32767 →
              w.fired ≤ 255 → w.excluded ≤ 255 → m.valid ≤ 255 → m.near ≤ 255 → m.far ≤ 255 → m.foreign ≤ 65535 →
              m.suspectDropped ≤ 255 → m.cededCount ≤ 255 → m.gapBefore ≤ 16777215 →
              signed p 5 = w.cant
              ∧ number p 7 1 = bit w.reduced 1 + bit m.drainMark 2 + bit m.gapReasons.halt 16 + bit m.gapReasons.hot 32
                  + bit m.gapReasons.busy 64 + bit m.gapReasons.storeFull 128
              ∧ number p 8 1 = w.fired ∧ number p 9 1 = w.excluded ∧ number p 10 1 = m.valid ∧ number p 11 1 = m.near
              ∧ number p 12 1 = m.far ∧ number p 13 2 = m.foreign ∧ number p 15 1 = m.suspectDropped
              ∧ number p 16 1 = m.cededCount ∧ number p 17 3 = m.gapBefore)
          ∧ ∀ (i : Nat) (x : ReportEntry), r.entries[i]? = some x →
              let at' := base + 9 * i
              number p at' 2 = 64 * x.bin + bit x.suspect 32 + bit x.warn 16 + bit x.intrusion 8 + bit x.unpaired 4 + bit x.contested 2
              ∧ number p (at' + 2) 1 = x.nLast ∧ number p (at' + 3) 1 = x.qBest
              ∧ number p (at' + 4) 3 = x.meanRadius.getD 16777215 ∧ signed p (at' + 7) = x.cMin.getD (-32768))
      ∧ (∀ b : StatusBody, b.occupancy ≤ 255 → b.watchInUse ≤ 255 → (∀ k : Fin 16, b.kinds[k].count ≤ 65535) →
        (∀ n ∈ b.newest, n ≤ 16777215) → (∀ n ∈ b.oldest, n ≤ 16777215) → (∀ i ∈ b.failingItem, i ≤ 255) →
        let p := layStatus b
        let state := match b.station with
          | .config => 0
          | .run => 1
          | .halted => 2
          | .fault => 3
        p.length = 50 ∧ number p 0 1 = 64 * state + b.strap.toNat
          ∧ number p 1 1 = (match b.firstError with
              | some k => k.index.val
              | none => 255)
          ∧ (∀ k : Fin 16, (number p 2 2).testBit k.val = b.kinds[k].seen ∧ number p (4 + 2 * k.val) 2 = b.kinds[k].count)
          ∧ number p 36 1 = b.occupancy ∧ number p 37 1 = b.watchInUse
          ∧ number p 38 1 = bit b.drainPending 1 + bit b.newest.isSome 2 + bit b.oldest.isSome 4
          ∧ number p 39 3 = b.newest.getD 0 ∧ number p 42 3 = b.oldest.getD 0
          ∧ number p 45 4 = b.marks.toNat ∧ number p 49 1 = b.failingItem.getD 0))
    ∧ ([ErrKind.rxCheck, .rxQuiet, .rxOverrun, .dupStation, .txDropped, .setupInvalid, .setupRefused, .sweepBusy, .storeFull,
        .edgeUnmatched, .watchFull, .foreignEcho, .cantClamp, .supplyWeak, .overTemp, .odometer].map fun k => k.index.val)
          = List.range 16
    ∧ ((List.range 16).map fun c => Kind.ofCode (BitVec.ofNat 4 c))
          = ([Kind.start, .restart, .alert, .statusReq, .clear, .drain, .status, .drained, .edge, .report, .setup].map some)
            ++ List.replicate 5 none
    ∧ ∀ (own : BitVec 4) (t : Telegram), t.target ≤ 31 → (frameOf own t).payload.length ≤ 255 →
        let f := frameOf own t
        let h := f.header
        f.payload = (match t.body with
          | .alert a => layAlert a
          | .status b => layStatus b
          | .drained n => layDrained n
          | .edge e => layEdge e
          | .report p => layReport p)
        ∧ (h.cls.toNat, h.kind.toNat) = (match t.body with
          | .alert _ => (1, 2)
          | .status _ => (3, 6)
          | .drained _ => (3, 7)
          | .edge _ => (4, 8)
          | .report _ => (5, 9))
        ∧ h.sender = own ∧ h.target.toNat = t.target ∧ h.length.toNat = f.payload.length ∧ f.check = checkSequence h f.payload

/-! ### What every step keeps -/

/-- The receive queue and the transmit groups stay within their capacities; at most 40 telegrams are owed, only while group A is full,
at most 8 of them DRAINED; the watch table holds at most 16 records, with local spans in ascending order that never come near one another,
distinct ids exactly on the records that are not PENDING, and an owed RAISE exactly for each record whose owed field is RAISE; and bin
lists ascend (R78, R133, R136, R144, R147, R148, R149, R160, R161). That local records stand in ascending order is log 26. -/
def Obligations.LineCapacityKept : Prop :=
  KeptByEveryStep fun s => LineWithinCapacity s ∧ OwedSound s ∧ WatchSound s ∧ BinsAscend s

/-- Counts stay within range, the first-error record names a seen kind, and attention follows it and the state (R181, R183, R184). -/
def Obligations.RecorderKept : Prop := KeptByEveryStep RecorderSound

/-- P stays within its limits and below T_next, which is present exactly in RUN and HALTED; and while it is present, no command lowers it
(R4, R6, R7, R14). -/
def Obligations.OdometryKept : Prop :=
  KeptByEveryStep OdometrySound
    ∧ ∀ (s t : State) (v w : Int), OdometrySound s → step s = .next t → s.odo.nextThreshold = some v →
        t.odo.nextThreshold = some w → v ≤ w

/-- Every stored field is in its range, and the bitmap marks exactly the stored items (R171, R172). -/
def Obligations.SetupKept : Prop := KeptByEveryStep SetupSound

/-- The section store stays in order, every section number is accounted for once, and no bin list ever holds more than 128 records: two for
each element that its sweep has fired (R36, R53, R78, R92, R94, R100, R101, R105, R106). The invariants of the odometry unit and of the
section in flight, which have statements of their own, stand beside it: numbers, groups and states of these blocks hang together. -/
def Obligations.StoreKept : Prop :=
  (KeptByEveryStep fun s => StoreSound s ∧ OdometrySound s ∧ InFlightSound s ∧ BinsBounded s)
    ∧ ∀ s : State, BinsBounded s → ∀ r ∈ s.store.records, r.bins.length ≤ 128

/-- In FAULT the station holds no section, no watch record, no telegram of groups B and C and no threshold (R14, R108, R151, R167,
R177). -/
def Obligations.FaultHoldsNothingKept : Prop := KeptByEveryStep FaultHoldsNothing

/-- A group is driven, by its rows and columns, and its acceptance open, only in DWELL on it; and no element is fired outside RUN, while it
is disabled, or while its beam angle lies in an exclusion window: of any element whose row and column are both driven, the station is in
RUN, and it is enabled and not excluded (R33, R35, R38, R40, R41, R61). The invariants of the section store and the odometry unit, stated on
their own above, stand beside it: they rule out a section started while another is in flight. -/
def Obligations.EmissionKept : Prop :=
  (KeptByEveryStep fun s => EmissionSound s ∧ InFlightSound s ∧ StoreSound s ∧ OdometrySound s)
    ∧ ∀ (s : State) (e : Fin 64), EmissionSound s → InFlightSound s → s.seq.drives e = true →
        s.ctrl.station = .run ∧ ∃ (h : Head) (w : SweepFixed) (table : Vector Element 64),
          s.ctrl.setup.head = some h ∧ s.seq.fixed = some w ∧ s.seq.table = some table ∧ table[e].enabled = true
            ∧ s.ctrl.setup.excludes (beamAngle h w.cant table[e]) = false
end

