-- ==== Sys2Proof/Laws/State.lean ====
section
/-! SUPPORT. What each update of one block leaves in each field of the state: one lemma per field per update, true by `rfl`, so that
no later proof unfolds an update. -/

namespace Sys2Proof.Machine

variable (s : State)

/-! ### `State.onOdo` -/

@[simp] theorem State.onOdo_odo (f : Odometry → Odometry) : (s.onOdo f).odo = f s.odo := rfl
@[simp] theorem State.onOdo_conv (f : Odometry → Odometry) : (s.onOdo f).conv = s.conv := rfl
@[simp] theorem State.onOdo_seq (f : Odometry → Odometry) : (s.onOdo f).seq = s.seq := rfl
@[simp] theorem State.onOdo_echo (f : Odometry → Odometry) : (s.onOdo f).echo = s.echo := rfl
@[simp] theorem State.onOdo_env (f : Odometry → Odometry) : (s.onOdo f).env = s.env := rfl
@[simp] theorem State.onOdo_store (f : Odometry → Odometry) : (s.onOdo f).store = s.store := rfl
@[simp] theorem State.onOdo_watch (f : Odometry → Odometry) : (s.onOdo f).watch = s.watch := rfl
@[simp] theorem State.onOdo_line (f : Odometry → Odometry) : (s.onOdo f).line = s.line := rfl
@[simp] theorem State.onOdo_ctrl (f : Odometry → Odometry) : (s.onOdo f).ctrl = s.ctrl := rfl
@[simp] theorem State.onOdo_recorder (f : Odometry → Odometry) : (s.onOdo f).recorder = s.recorder := rfl
@[simp] theorem State.onOdo_resetAsserted (f : Odometry → Odometry) : (s.onOdo f).resetAsserted = s.resetAsserted := rfl
@[simp] theorem State.onOdo_pending (f : Odometry → Odometry) : (s.onOdo f).pending = s.pending := rfl

/-! ### `State.onConv` -/

@[simp] theorem State.onConv_odo (f : Converter → Converter) : (s.onConv f).odo = s.odo := rfl
@[simp] theorem State.onConv_conv (f : Converter → Converter) : (s.onConv f).conv = f s.conv := rfl
@[simp] theorem State.onConv_seq (f : Converter → Converter) : (s.onConv f).seq = s.seq := rfl
@[simp] theorem State.onConv_echo (f : Converter → Converter) : (s.onConv f).echo = s.echo := rfl
@[simp] theorem State.onConv_env (f : Converter → Converter) : (s.onConv f).env = s.env := rfl
@[simp] theorem State.onConv_store (f : Converter → Converter) : (s.onConv f).store = s.store := rfl
@[simp] theorem State.onConv_watch (f : Converter → Converter) : (s.onConv f).watch = s.watch := rfl
@[simp] theorem State.onConv_line (f : Converter → Converter) : (s.onConv f).line = s.line := rfl
@[simp] theorem State.onConv_ctrl (f : Converter → Converter) : (s.onConv f).ctrl = s.ctrl := rfl
@[simp] theorem State.onConv_recorder (f : Converter → Converter) : (s.onConv f).recorder = s.recorder := rfl
@[simp] theorem State.onConv_resetAsserted (f : Converter → Converter) : (s.onConv f).resetAsserted = s.resetAsserted := rfl
@[simp] theorem State.onConv_pending (f : Converter → Converter) : (s.onConv f).pending = s.pending := rfl

/-! ### `State.onSeq` -/

@[simp] theorem State.onSeq_odo (f : Sequencer → Sequencer) : (s.onSeq f).odo = s.odo := rfl
@[simp] theorem State.onSeq_conv (f : Sequencer → Sequencer) : (s.onSeq f).conv = s.conv := rfl
@[simp] theorem State.onSeq_seq (f : Sequencer → Sequencer) : (s.onSeq f).seq = f s.seq := rfl
@[simp] theorem State.onSeq_echo (f : Sequencer → Sequencer) : (s.onSeq f).echo = s.echo := rfl
@[simp] theorem State.onSeq_env (f : Sequencer → Sequencer) : (s.onSeq f).env = s.env := rfl
@[simp] theorem State.onSeq_store (f : Sequencer → Sequencer) : (s.onSeq f).store = s.store := rfl
@[simp] theorem State.onSeq_watch (f : Sequencer → Sequencer) : (s.onSeq f).watch = s.watch := rfl
@[simp] theorem State.onSeq_line (f : Sequencer → Sequencer) : (s.onSeq f).line = s.line := rfl
@[simp] theorem State.onSeq_ctrl (f : Sequencer → Sequencer) : (s.onSeq f).ctrl = s.ctrl := rfl
@[simp] theorem State.onSeq_recorder (f : Sequencer → Sequencer) : (s.onSeq f).recorder = s.recorder := rfl
@[simp] theorem State.onSeq_resetAsserted (f : Sequencer → Sequencer) : (s.onSeq f).resetAsserted = s.resetAsserted := rfl
@[simp] theorem State.onSeq_pending (f : Sequencer → Sequencer) : (s.onSeq f).pending = s.pending := rfl

/-! ### `State.onEcho` -/

@[simp] theorem State.onEcho_odo (f : EchoProcessor → EchoProcessor) : (s.onEcho f).odo = s.odo := rfl
@[simp] theorem State.onEcho_conv (f : EchoProcessor → EchoProcessor) : (s.onEcho f).conv = s.conv := rfl
@[simp] theorem State.onEcho_seq (f : EchoProcessor → EchoProcessor) : (s.onEcho f).seq = s.seq := rfl
@[simp] theorem State.onEcho_echo (f : EchoProcessor → EchoProcessor) : (s.onEcho f).echo = f s.echo := rfl
@[simp] theorem State.onEcho_env (f : EchoProcessor → EchoProcessor) : (s.onEcho f).env = s.env := rfl
@[simp] theorem State.onEcho_store (f : EchoProcessor → EchoProcessor) : (s.onEcho f).store = s.store := rfl
@[simp] theorem State.onEcho_watch (f : EchoProcessor → EchoProcessor) : (s.onEcho f).watch = s.watch := rfl
@[simp] theorem State.onEcho_line (f : EchoProcessor → EchoProcessor) : (s.onEcho f).line = s.line := rfl
@[simp] theorem State.onEcho_ctrl (f : EchoProcessor → EchoProcessor) : (s.onEcho f).ctrl = s.ctrl := rfl
@[simp] theorem State.onEcho_recorder (f : EchoProcessor → EchoProcessor) : (s.onEcho f).recorder = s.recorder := rfl
@[simp] theorem State.onEcho_resetAsserted (f : EchoProcessor → EchoProcessor) : (s.onEcho f).resetAsserted = s.resetAsserted := rfl
@[simp] theorem State.onEcho_pending (f : EchoProcessor → EchoProcessor) : (s.onEcho f).pending = s.pending := rfl

/-! ### `State.onStore` -/

@[simp] theorem State.onStore_odo (f : Store → Store) : (s.onStore f).odo = s.odo := rfl
@[simp] theorem State.onStore_conv (f : Store → Store) : (s.onStore f).conv = s.conv := rfl
@[simp] theorem State.onStore_seq (f : Store → Store) : (s.onStore f).seq = s.seq := rfl
@[simp] theorem State.onStore_echo (f : Store → Store) : (s.onStore f).echo = s.echo := rfl
@[simp] theorem State.onStore_env (f : Store → Store) : (s.onStore f).env = s.env := rfl
@[simp] theorem State.onStore_store (f : Store → Store) : (s.onStore f).store = f s.store := rfl
@[simp] theorem State.onStore_watch (f : Store → Store) : (s.onStore f).watch = s.watch := rfl
@[simp] theorem State.onStore_line (f : Store → Store) : (s.onStore f).line = s.line := rfl
@[simp] theorem State.onStore_ctrl (f : Store → Store) : (s.onStore f).ctrl = s.ctrl := rfl
@[simp] theorem State.onStore_recorder (f : Store → Store) : (s.onStore f).recorder = s.recorder := rfl
@[simp] theorem State.onStore_resetAsserted (f : Store → Store) : (s.onStore f).resetAsserted = s.resetAsserted := rfl
@[simp] theorem State.onStore_pending (f : Store → Store) : (s.onStore f).pending = s.pending := rfl

/-! ### `State.onWatch` -/

@[simp] theorem State.onWatch_odo (f : Watch → Watch) : (s.onWatch f).odo = s.odo := rfl
@[simp] theorem State.onWatch_conv (f : Watch → Watch) : (s.onWatch f).conv = s.conv := rfl
@[simp] theorem State.onWatch_seq (f : Watch → Watch) : (s.onWatch f).seq = s.seq := rfl
@[simp] theorem State.onWatch_echo (f : Watch → Watch) : (s.onWatch f).echo = s.echo := rfl
@[simp] theorem State.onWatch_env (f : Watch → Watch) : (s.onWatch f).env = s.env := rfl
@[simp] theorem State.onWatch_store (f : Watch → Watch) : (s.onWatch f).store = s.store := rfl
@[simp] theorem State.onWatch_watch (f : Watch → Watch) : (s.onWatch f).watch = f s.watch := rfl
@[simp] theorem State.onWatch_line (f : Watch → Watch) : (s.onWatch f).line = s.line := rfl
@[simp] theorem State.onWatch_ctrl (f : Watch → Watch) : (s.onWatch f).ctrl = s.ctrl := rfl
@[simp] theorem State.onWatch_recorder (f : Watch → Watch) : (s.onWatch f).recorder = s.recorder := rfl
@[simp] theorem State.onWatch_resetAsserted (f : Watch → Watch) : (s.onWatch f).resetAsserted = s.resetAsserted := rfl
@[simp] theorem State.onWatch_pending (f : Watch → Watch) : (s.onWatch f).pending = s.pending := rfl

/-! ### `State.onLine` -/

@[simp] theorem State.onLine_odo (f : Line → Line) : (s.onLine f).odo = s.odo := rfl
@[simp] theorem State.onLine_conv (f : Line → Line) : (s.onLine f).conv = s.conv := rfl
@[simp] theorem State.onLine_seq (f : Line → Line) : (s.onLine f).seq = s.seq := rfl
@[simp] theorem State.onLine_echo (f : Line → Line) : (s.onLine f).echo = s.echo := rfl
@[simp] theorem State.onLine_env (f : Line → Line) : (s.onLine f).env = s.env := rfl
@[simp] theorem State.onLine_store (f : Line → Line) : (s.onLine f).store = s.store := rfl
@[simp] theorem State.onLine_watch (f : Line → Line) : (s.onLine f).watch = s.watch := rfl
@[simp] theorem State.onLine_line (f : Line → Line) : (s.onLine f).line = f s.line := rfl
@[simp] theorem State.onLine_ctrl (f : Line → Line) : (s.onLine f).ctrl = s.ctrl := rfl
@[simp] theorem State.onLine_recorder (f : Line → Line) : (s.onLine f).recorder = s.recorder := rfl
@[simp] theorem State.onLine_resetAsserted (f : Line → Line) : (s.onLine f).resetAsserted = s.resetAsserted := rfl
@[simp] theorem State.onLine_pending (f : Line → Line) : (s.onLine f).pending = s.pending := rfl

/-! ### `State.onCtrl` -/

@[simp] theorem State.onCtrl_odo (f : Control → Control) : (s.onCtrl f).odo = s.odo := rfl
@[simp] theorem State.onCtrl_conv (f : Control → Control) : (s.onCtrl f).conv = s.conv := rfl
@[simp] theorem State.onCtrl_seq (f : Control → Control) : (s.onCtrl f).seq = s.seq := rfl
@[simp] theorem State.onCtrl_echo (f : Control → Control) : (s.onCtrl f).echo = s.echo := rfl
@[simp] theorem State.onCtrl_env (f : Control → Control) : (s.onCtrl f).env = s.env := rfl
@[simp] theorem State.onCtrl_store (f : Control → Control) : (s.onCtrl f).store = s.store := rfl
@[simp] theorem State.onCtrl_watch (f : Control → Control) : (s.onCtrl f).watch = s.watch := rfl
@[simp] theorem State.onCtrl_line (f : Control → Control) : (s.onCtrl f).line = s.line := rfl
@[simp] theorem State.onCtrl_ctrl (f : Control → Control) : (s.onCtrl f).ctrl = f s.ctrl := rfl
@[simp] theorem State.onCtrl_recorder (f : Control → Control) : (s.onCtrl f).recorder = s.recorder := rfl
@[simp] theorem State.onCtrl_resetAsserted (f : Control → Control) : (s.onCtrl f).resetAsserted = s.resetAsserted := rfl
@[simp] theorem State.onCtrl_pending (f : Control → Control) : (s.onCtrl f).pending = s.pending := rfl

/-! ### `State.onRecorder` -/

@[simp] theorem State.onRecorder_odo (f : Recorder → Recorder) : (s.onRecorder f).odo = s.odo := rfl
@[simp] theorem State.onRecorder_conv (f : Recorder → Recorder) : (s.onRecorder f).conv = s.conv := rfl
@[simp] theorem State.onRecorder_seq (f : Recorder → Recorder) : (s.onRecorder f).seq = s.seq := rfl
@[simp] theorem State.onRecorder_echo (f : Recorder → Recorder) : (s.onRecorder f).echo = s.echo := rfl
@[simp] theorem State.onRecorder_env (f : Recorder → Recorder) : (s.onRecorder f).env = s.env := rfl
@[simp] theorem State.onRecorder_store (f : Recorder → Recorder) : (s.onRecorder f).store = s.store := rfl
@[simp] theorem State.onRecorder_watch (f : Recorder → Recorder) : (s.onRecorder f).watch = s.watch := rfl
@[simp] theorem State.onRecorder_line (f : Recorder → Recorder) : (s.onRecorder f).line = s.line := rfl
@[simp] theorem State.onRecorder_ctrl (f : Recorder → Recorder) : (s.onRecorder f).ctrl = s.ctrl := rfl
@[simp] theorem State.onRecorder_recorder (f : Recorder → Recorder) : (s.onRecorder f).recorder = f s.recorder := rfl
@[simp] theorem State.onRecorder_resetAsserted (f : Recorder → Recorder) : (s.onRecorder f).resetAsserted = s.resetAsserted := rfl
@[simp] theorem State.onRecorder_pending (f : Recorder → Recorder) : (s.onRecorder f).pending = s.pending := rfl

/-! ### `State.onSweeping` and `State.onMember` act on one block each -/

@[simp] theorem State.onSweeping_odo (f : SectionRecord → SectionRecord) : (s.onSweeping f).odo = s.odo := rfl
@[simp] theorem State.onSweeping_conv (f : SectionRecord → SectionRecord) : (s.onSweeping f).conv = s.conv := rfl
@[simp] theorem State.onSweeping_seq (f : SectionRecord → SectionRecord) : (s.onSweeping f).seq = s.seq := rfl
@[simp] theorem State.onSweeping_echo (f : SectionRecord → SectionRecord) : (s.onSweeping f).echo = s.echo := rfl
@[simp] theorem State.onSweeping_env (f : SectionRecord → SectionRecord) : (s.onSweeping f).env = s.env := rfl
@[simp] theorem State.onSweeping_watch (f : SectionRecord → SectionRecord) : (s.onSweeping f).watch = s.watch := rfl
@[simp] theorem State.onSweeping_line (f : SectionRecord → SectionRecord) : (s.onSweeping f).line = s.line := rfl
@[simp] theorem State.onSweeping_ctrl (f : SectionRecord → SectionRecord) : (s.onSweeping f).ctrl = s.ctrl := rfl
@[simp] theorem State.onSweeping_recorder (f : SectionRecord → SectionRecord) : (s.onSweeping f).recorder = s.recorder := rfl
@[simp] theorem State.onSweeping_resetAsserted (f : SectionRecord → SectionRecord) : (s.onSweeping f).resetAsserted = s.resetAsserted := rfl
@[simp] theorem State.onSweeping_pending (f : SectionRecord → SectionRecord) : (s.onSweeping f).pending = s.pending := rfl

theorem State.onSweeping_store (f : SectionRecord → SectionRecord) :
    (s.onSweeping f).store = { s.store with records := s.store.records.map fun r => if r.state = .sweeping then f r else r } := rfl

/-! ### `State.followAttention` -/

@[simp] theorem State.followAttention_odo : s.followAttention.odo = s.odo := rfl
@[simp] theorem State.followAttention_conv : s.followAttention.conv = s.conv := rfl
@[simp] theorem State.followAttention_seq : s.followAttention.seq = s.seq := rfl
@[simp] theorem State.followAttention_echo : s.followAttention.echo = s.echo := rfl
@[simp] theorem State.followAttention_env : s.followAttention.env = s.env := rfl
@[simp] theorem State.followAttention_store : s.followAttention.store = s.store := rfl
@[simp] theorem State.followAttention_watch : s.followAttention.watch = s.watch := rfl
@[simp] theorem State.followAttention_line : s.followAttention.line = s.line := rfl
@[simp] theorem State.followAttention_ctrl : s.followAttention.ctrl = s.ctrl := rfl
@[simp] theorem State.followAttention_resetAsserted : s.followAttention.resetAsserted = s.resetAsserted := rfl
@[simp] theorem State.followAttention_pending : s.followAttention.pending = s.pending := rfl
@[simp] theorem State.followAttention_kinds : s.followAttention.recorder.kinds = s.recorder.kinds := rfl
@[simp] theorem State.followAttention_firstError : s.followAttention.recorder.firstError = s.recorder.firstError := rfl
@[simp] theorem State.followAttention_attention :
    s.followAttention.recorder.attention = (s.recorder.firstError.isSome || decide (s.ctrl.station = .fault)) := rfl

/-! ### The transmit groups -/

@[simp] theorem Line.group_a (l : Line) : l.group .a = l.groupA := rfl
@[simp] theorem Line.group_b (l : Line) : l.group .b = l.groupB := rfl
@[simp] theorem Line.group_c (l : Line) : l.group .c = l.groupC := rfl
@[simp] theorem Line.setGroup_rx (l : Line) (g : TxGroup) (ts : List Telegram) : (l.setGroup g ts).rx = l.rx := by cases g <;> rfl
@[simp] theorem Line.setGroup_queue (l : Line) (g : TxGroup) (ts : List Telegram) : (l.setGroup g ts).queue = l.queue := by
  cases g <;> rfl
@[simp] theorem Line.setGroup_tx (l : Line) (g : TxGroup) (ts : List Telegram) : (l.setGroup g ts).tx = l.tx := by cases g <;> rfl
@[simp] theorem Line.setGroup_breakSend (l : Line) (g : TxGroup) (ts : List Telegram) :
    (l.setGroup g ts).breakSend = l.breakSend := by cases g <;> rfl
@[simp] theorem Line.setGroup_judging (l : Line) (g : TxGroup) (ts : List Telegram) : (l.setGroup g ts).judging = l.judging := by
  cases g <;> rfl

/-- A group set reads back, and the other groups are as before. -/
theorem Line.group_setGroup (l : Line) (g h : TxGroup) (ts : List Telegram) :
    (l.setGroup g ts).group h = if h = g then ts else l.group h := by cases g <;> cases h <;> rfl

end Sys2Proof.Machine
end

