-- ==== Sys2Proof/Laws/Ops.lean ====
section
/-! SUPPORT. What each shared operation of Ops.lean can do, said once: the offer and the transmit groups, the abort, the entry to
FAULT, the recording of an error kind, group A with its owed telegrams, the completion of a drain, the handler. -/

namespace Sys2Proof.Machine

variable (s : State)

/-! ### `live` and `whileRun` -/

/-- While reset is not asserted, a command answers its effect. -/
theorem live_eq (f : State → State) (h : s.resetAsserted = false) : live f s = .next (f s) := by simp [live, h]

/-- While reset is asserted, a command changes nothing. -/
theorem live_reset (f : State → State) (h : s.resetAsserted = true) : live f s = .next s := by simp [live, h]

/-- What holds of the state before a command and of its effect holds of the state after it. -/
theorem live_next {f : State → State} {t : State} {P : State → Prop} (h : live f s = .next t) (hs : P s)
    (hf : s.resetAsserted = false → P (f s)) : P t := by
  cases hr : s.resetAsserted <;> simp [live, hr] at h
  · exact h ▸ hf hr
  · exact h ▸ hs

theorem whileRun_run (f : State → State) (h : s.ctrl.station = .run) : whileRun f s = f s := by simp [whileRun, h]

theorem whileRun_other (f : State → State) (h : s.ctrl.station ≠ .run) : whileRun f s = s := by simp [whileRun, h]

/-- What holds of a state and of a later step's effect holds whether or not the step is still taken. -/
theorem whileRun_keeps {f : State → State} {P : State → Prop} (hs : P s) (hf : s.ctrl.station = .run → P (f s)) :
    P (whileRun f s) := by
  by_cases h : s.ctrl.station = .run
  · rw [whileRun_run s f h]; exact hf h
  · rw [whileRun_other s f h]; exact hs

/-! ### The transmit groups -/

/-- The offer begins the transmission of the head of a group, or does nothing. -/
theorem offer_cases : offer s = s ∨ ∃ g t rest, s.line.group g = t :: rest ∧ s.line.tx = none ∧ s.line.breakSend = false ∧
    offer s = s.onLine fun l => { l with tx := some ⟨g, frameOf s.ctrl.ownNumber t, false⟩ } := by
  unfold offer
  split
  · exact .inl rfl
  · rename_i h
    split
    · exact .inl rfl
    · rename_i g hg
      split
      · exact .inl rfl
      · rename_i t rest ht
        refine .inr ⟨g, t, rest, ht, ?_, ?_, rfl⟩
        · cases hx : s.line.tx <;> simp_all
        · cases hx : s.line.breakSend <;> simp_all

/-- The offer changes the transmission at most. -/
theorem offer_eq : ∃ x, offer s = s.onLine fun l => { l with tx := x } := by
  obtain h | ⟨g, t, rest, -, -, -, h⟩ := offer_cases s
  · exact ⟨s.line.tx, by rw [h]; rfl⟩
  · exact ⟨_, h⟩

/-- A telegram that enters a group stands at its end; nothing else changes but, where it is offered, the transmission. -/
theorem enqueue_eq (g : TxGroup) (t : Telegram) :
    ∃ x, enqueue g t s = s.onLine fun l => { l.setGroup g (l.group g ++ [t]) with tx := x } := by
  unfold enqueue
  dsimp only
  split
  · obtain ⟨x, hx⟩ := offer_eq (s.onLine fun l => l.setGroup g (l.group g ++ [t]))
    exact ⟨x, by rw [hx]; rfl⟩
  · exact ⟨s.line.tx, by cases g <;> rfl⟩

/-- With its transmission as before, a telegram entering a group is all that happens while the receiver is not IDLE. -/
theorem enqueue_busy (g : TxGroup) (t : Telegram) (h : s.line.rx ≠ .idle) :
    enqueue g t s = s.onLine fun l => l.setGroup g (l.group g ++ [t]) := by simp [enqueue, h]

/-! ### The section in flight -/

/-- An abort in IDLE does nothing. -/
theorem abortSection_idle (h : s.seq.sweep = .idle) : abortSection s = s := by simp [abortSection, h]

/-- An abort of a section in flight. -/
theorem abortSection_flight (h : s.seq.sweep ≠ .idle) :
    abortSection s = { s with
      seq := { s.seq with groups := [], sweep := .idle, fixed := none, rows := 0, cols := 0 }
      echo := { acceptance := none, geometry := none }
      conv := if s.conv.scan = .sectionScan then { s.conv with scan := .periodic } else s.conv
      store := s.store.discardSweeping } := by
  simp only [abortSection, h, if_false]; rfl

/-- The records that stay when the SWEEPING one is discarded. -/
theorem Store.handBack_records (rs : List SectionRecord) (st : Store) : (rs.foldl Store.handBack st).records = st.records := by
  induction rs generalizing st with
  | nil => rfl
  | cons r rs ih => rw [List.foldl_cons, ih]; rfl

theorem Store.handBack_drain (rs : List SectionRecord) (st : Store) :
    (rs.foldl Store.handBack st).drainPending = st.drainPending ∧ (rs.foldl Store.handBack st).drainTarget = st.drainTarget
      ∧ (rs.foldl Store.handBack st).drainRequester = st.drainRequester := by
  induction rs generalizing st with
  | nil => exact ⟨rfl, rfl, rfl⟩
  | cons r rs ih => rw [List.foldl_cons]; exact ih (st.handBack r)

/-- Handing records back adds their gap-before counts and one each to the accumulator's count. -/
theorem Store.handBack_gapCount (rs : List SectionRecord) (st : Store) :
    (rs.foldl Store.handBack st).gapCount = st.gapCount + (rs.map fun r => r.summary.gapBefore + 1).sum := by
  induction rs generalizing st with
  | nil => rfl
  | cons r rs ih => rw [List.foldl_cons, ih, List.map_cons, List.sum_cons]; simp only [Store.handBack]; omega

theorem Store.discardSweeping_records (st : Store) :
    st.discardSweeping.records = st.records.filter fun r => decide (r.state ≠ .sweeping) := by
  rw [Store.discardSweeping, Store.handBack_records]

theorem Store.discardSweeping_gapCount (st : Store) : st.discardSweeping.gapCount =
    st.gapCount + ((st.records.filter fun r => decide (r.state = .sweeping)).map fun r => r.summary.gapBefore + 1).sum := by
  rw [Store.discardSweeping, Store.handBack_gapCount]

theorem Store.discardSweeping_drain (st : Store) : st.discardSweeping.drainPending = st.drainPending
    ∧ st.discardSweeping.drainTarget = st.drainTarget ∧ st.discardSweeping.drainRequester = st.drainRequester :=
  Store.handBack_drain _ _

/-- An abort does not read the station state. -/
theorem abortSection_onCtrl (f : Control → Control) : abortSection (s.onCtrl f) = (abortSection s).onCtrl f := by
  by_cases h : s.seq.sweep = .idle
  · rw [abortSection_idle _ (by simpa using h), abortSection_idle _ h]
  · rw [abortSection_flight _ (by simpa using h), abortSection_flight _ h]; rfl

@[simp] theorem abortSection_odo : (abortSection s).odo = s.odo := by unfold abortSection; split <;> rfl
@[simp] theorem abortSection_env : (abortSection s).env = s.env := by unfold abortSection; split <;> rfl
@[simp] theorem abortSection_watch : (abortSection s).watch = s.watch := by unfold abortSection; split <;> rfl
@[simp] theorem abortSection_line : (abortSection s).line = s.line := by unfold abortSection; split <;> rfl
@[simp] theorem abortSection_ctrl : (abortSection s).ctrl = s.ctrl := by unfold abortSection; split <;> rfl
@[simp] theorem abortSection_recorder : (abortSection s).recorder = s.recorder := by unfold abortSection; split <;> rfl
@[simp] theorem abortSection_resetAsserted : (abortSection s).resetAsserted = s.resetAsserted := by
  unfold abortSection; split <;> rfl
@[simp] theorem abortSection_pending : (abortSection s).pending = s.pending := by unfold abortSection; split <;> rfl
@[simp] theorem abortSection_sweep : (abortSection s).seq.sweep = .idle := by
  unfold abortSection; split
  · assumption
  · rfl
@[simp] theorem abortSection_table : (abortSection s).seq.table = s.seq.table := by unfold abortSection; split <;> rfl

/-! ### Entry to FAULT -/

@[simp] theorem enterFault_odo : (enterFault s).odo = { s.odo with base := none, nextThreshold := none } := by simp [enterFault]
@[simp] theorem enterFault_env : (enterFault s).env = s.env := by simp [enterFault]
@[simp] theorem enterFault_seq : (enterFault s).seq = (abortSection s).seq := by simp [enterFault, abortSection_onCtrl]
@[simp] theorem enterFault_echo : (enterFault s).echo = (abortSection s).echo := by simp [enterFault, abortSection_onCtrl]
@[simp] theorem enterFault_conv : (enterFault s).conv = (abortSection s).conv := by simp [enterFault, abortSection_onCtrl]
@[simp] theorem enterFault_records : (enterFault s).store.records = [] := by
  simp [enterFault, Store.enterFault, Store.handBack_records]
@[simp] theorem enterFault_drainPending : (enterFault s).store.drainPending = false := by simp [enterFault, Store.enterFault]
@[simp] theorem enterFault_drainTarget : (enterFault s).store.drainTarget = none := by simp [enterFault, Store.enterFault]
@[simp] theorem enterFault_drainRequester : (enterFault s).store.drainRequester = none := by simp [enterFault, Store.enterFault]
@[simp] theorem enterFault_watch : (enterFault s).watch = Watch.cleared := by simp [enterFault]
@[simp] theorem enterFault_line : (enterFault s).line = s.line.enterFault := by simp [enterFault]
@[simp] theorem enterFault_ctrl : (enterFault s).ctrl = { s.ctrl with station := .fault } := by simp [enterFault]
@[simp] theorem enterFault_recorder : (enterFault s).recorder = { s.recorder with attention := true } := by
  simp [enterFault, State.followAttention]
@[simp] theorem enterFault_resetAsserted : (enterFault s).resetAsserted = s.resetAsserted := by simp [enterFault]
@[simp] theorem enterFault_pending : (enterFault s).pending = s.pending := by simp [enterFault]

/-- The accumulator at entry to FAULT counts every record's section and the gaps before it. -/
theorem enterFault_gapCount :
    (enterFault s).store.gapCount = s.store.gapCount + (s.store.records.map fun r => r.summary.gapBefore + 1).sum := by
  have split : ∀ rs : List SectionRecord, (rs.map fun r => r.summary.gapBefore + 1).sum
      = ((rs.filter fun r => decide (r.state = .sweeping)).map fun r => r.summary.gapBefore + 1).sum
        + ((rs.filter fun r => decide (r.state ≠ .sweeping)).map fun r => r.summary.gapBefore + 1).sum := by
    intro rs
    induction rs with
    | nil => rfl
    | cons r rs ih =>
      by_cases hr : r.state = .sweeping
      · simp [hr] at ih ⊢; omega
      · simp [hr] at ih ⊢; omega
  have key : ∀ st : Store, st.enterFault.gapCount = st.gapCount + (st.records.map fun r => r.summary.gapBefore + 1).sum := by
    intro st
    show (st.records.foldl Store.handBack { st with records := [] }).gapCount = _
    rw [Store.handBack_gapCount]
  show ((abortSection (s.onCtrl fun c => { c with station := .fault })).store.enterFault).gapCount = _
  rw [key]
  by_cases hs : s.seq.sweep = .idle
  · rw [abortSection_idle _ (by simpa using hs)]; rfl
  · rw [abortSection_flight _ (by simpa using hs)]
    simp only [State.onCtrl_store, Store.discardSweeping_gapCount, Store.discardSweeping_records]
    rw [split s.store.records]
    omega

/-! ### Recording an error kind -/

/-- Recording a kind counts it; unmasked and not NOTE it also fills an empty first-error record; unmasked and FATAL outside FAULT
it enters FAULT. -/
theorem record_cases (k : ErrKind) :
    ((s.ctrl.setup.policy k).masked = true ∨ (s.ctrl.setup.policy k).severity = .note) ∧
        record k s = s.onRecorder (·.count k)
    ∨ ((s.ctrl.setup.policy k).masked = false ∧ ((s.ctrl.setup.policy k).severity = .degraded ∨
          (s.ctrl.setup.policy k).severity = .fatal ∧ s.ctrl.station = .fault)) ∧
        record k s = (s.onRecorder fun r => (r.count k).fill k).followAttention
    ∨ ((s.ctrl.setup.policy k).masked = false ∧ (s.ctrl.setup.policy k).severity = .fatal ∧ s.ctrl.station ≠ .fault) ∧
        record k s = enterFault (s.onRecorder fun r => (r.count k).fill k).followAttention := by
  have key : ∀ v : Severity, v = .note ∨ v = .degraded ∨ v = .fatal := by intro v; cases v <;> simp
  by_cases hm : (s.ctrl.setup.policy k).masked = true
  · exact .inl ⟨.inl hm, by simp [record, hm]⟩
  · have hm : (s.ctrl.setup.policy k).masked = false := by simpa using hm
    obtain hv | hv | hv := key (s.ctrl.setup.policy k).severity
    · exact .inl ⟨.inr hv, by simp [record, hv]⟩
    · exact .inr (.inl ⟨⟨hm, .inl hv⟩, by simp [record, hm, hv]; rfl⟩)
    · by_cases hf : s.ctrl.station = .fault
      · exact .inr (.inl ⟨⟨hm, .inr ⟨hv, hf⟩⟩, by simp [record, hm, hv, hf]; rfl⟩)
      · exact .inr (.inr ⟨⟨hm, hv, hf⟩, by simp [record, hm, hv, hf]; rfl⟩)

/-- A field that neither a record of the fault recorder nor an entry to FAULT changes is as before. -/
theorem record_keeps {α : Type} (g : State → α) (k : ErrKind) (hr : ∀ t : State, ∀ f, g (t.onRecorder f) = g t)
    (ha : ∀ t : State, g t.followAttention = g t) (hf : ∀ t : State, g (enterFault t) = g t) : g (record k s) = g s := by
  obtain ⟨-, h⟩ | ⟨-, h⟩ | ⟨-, h⟩ := record_cases s k
  · rw [h, hr]
  · rw [h, ha, hr]
  · rw [h, hf, ha, hr]

@[simp] theorem record_env (k : ErrKind) : (record k s).env = s.env :=
  record_keeps s (·.env) k (fun _ _ => rfl) (fun _ => rfl) (by simp)
@[simp] theorem record_resetAsserted (k : ErrKind) : (record k s).resetAsserted = s.resetAsserted :=
  record_keeps s (·.resetAsserted) k (fun _ _ => rfl) (fun _ => rfl) (by simp)
@[simp] theorem record_pending (k : ErrKind) : (record k s).pending = s.pending :=
  record_keeps s (·.pending) k (fun _ _ => rfl) (fun _ => rfl) (by simp)
@[simp] theorem record_setup (k : ErrKind) : (record k s).ctrl.setup = s.ctrl.setup :=
  record_keeps s (·.ctrl.setup) k (fun _ _ => rfl) (fun _ => rfl) (by simp)
@[simp] theorem record_ownNumber (k : ErrKind) : (record k s).ctrl.ownNumber = s.ctrl.ownNumber :=
  record_keeps s (·.ctrl.ownNumber) k (fun _ _ => rfl) (fun _ => rfl) (by simp)
@[simp] theorem record_marks (k : ErrKind) : (record k s).ctrl.marks = s.ctrl.marks :=
  record_keeps s (·.ctrl.marks) k (fun _ _ => rfl) (fun _ => rfl) (by simp)
@[simp] theorem record_failingItem (k : ErrKind) : (record k s).ctrl.failingItem = s.ctrl.failingItem :=
  record_keeps s (·.ctrl.failingItem) k (fun _ _ => rfl) (fun _ => rfl) (by simp)
@[simp] theorem record_phase (k : ErrKind) : (record k s).odo.phase = s.odo.phase :=
  record_keeps s (·.odo.phase) k (fun _ _ => rfl) (fun _ => rfl) (by simp)
@[simp] theorem record_pos (k : ErrKind) : (record k s).odo.pos = s.odo.pos :=
  record_keeps s (·.odo.pos) k (fun _ _ => rfl) (fun _ => rfl) (by simp)
@[simp] theorem record_nextSection (k : ErrKind) : (record k s).odo.nextSection = s.odo.nextSection :=
  record_keeps s (·.odo.nextSection) k (fun _ _ => rfl) (fun _ => rfl) (by simp)
@[simp] theorem record_limitMark (k : ErrKind) : (record k s).odo.limitMark = s.odo.limitMark :=
  record_keeps s (·.odo.limitMark) k (fun _ _ => rfl) (fun _ => rfl) (by simp)
@[simp] theorem record_queue (k : ErrKind) : (record k s).line.queue = s.line.queue :=
  record_keeps s (·.line.queue) k (fun _ _ => rfl) (fun _ => rfl) (by intro t; simp only [enterFault_line, Line.enterFault]; split <;> (try split) <;> rfl)
@[simp] theorem record_groupA (k : ErrKind) : (record k s).line.groupA = s.line.groupA :=
  record_keeps s (·.line.groupA) k (fun _ _ => rfl) (fun _ => rfl) (by intro t; simp only [enterFault_line, Line.enterFault]; split <;> (try split) <;> rfl)
@[simp] theorem record_table (k : ErrKind) : (record k s).seq.table = s.seq.table :=
  record_keeps s (·.seq.table) k (fun _ _ => rfl) (fun _ => rfl) (by simp)

/-- The kind recorded is seen, and counted up to 65535. -/
theorem record_kinds (k : ErrKind) : (record k s).recorder.kinds =
    s.recorder.kinds.set k.index.val ⟨true, min 65535 (s.recorder.kinds[k.index].count + 1)⟩ k.index.isLt := by
  obtain ⟨-, h⟩ | ⟨-, h⟩ | ⟨-, h⟩ := record_cases s k <;> rw [h]
  · rfl
  · rfl
  · rw [enterFault_recorder]; rfl

/-! ### Group A, the owed telegrams, and the completion of a drain -/

/-- A slot of group A that comes free takes the oldest owed telegram, if there is one. -/
theorem refillA_cases : (s.watch.owed = [] ∧ refillA s = s) ∨ ∃ t rest, s.watch.owed = t :: rest ∧
    refillA s = enqueue .a t (s.onWatch fun w => { (w.setOwed t false) with owed := rest }) := by
  unfold refillA
  cases h : s.watch.owed with
  | nil => exact .inl ⟨rfl, rfl⟩
  | cons t rest => exact .inr ⟨t, rest, rfl, rfl⟩

/-- An ALERT or DRAINED enters group A where it has room; otherwise it is owed, but for a ninth owed DRAINED, which is dropped. -/
theorem produceA_cases (t : Telegram) :
    (s.hasRoom .a = true ∧ produceA t s = enqueue .a t s)
    ∨ (s.hasRoom .a = false ∧ t.isDrained = true ∧ produceA t s = record .txDropped s)
    ∨ (s.hasRoom .a = false ∧ produceA t s = owe t s) := by
  unfold produceA
  by_cases hr : s.hasRoom .a = true
  · exact .inl ⟨hr, by simp [hr]⟩
  · have hf : s.hasRoom .a = false := by simpa using hr
    rw [if_neg hr]
    split
    · rename_i h
      exact .inr (.inl ⟨hf, by simp_all, rfl⟩)
    · exact .inr (.inr ⟨hf, rfl⟩)

/-- The end of a transmission that does not complete: nothing else changes, unless RESTART has condemned the telegram. -/
theorem abandonTx_kept (h : ∀ t, s.line.tx = some t → t.condemned = false) :
    abandonTx s = s.onLine fun l => { l with tx := none } := by
  unfold abandonTx
  cases ht : s.line.tx with
  | none => simp only [State.onLine]; rw [← ht]
  | some t => simp [h t ht]

/-! ### The handler -/

/-- The handler takes the oldest telegram, when the command takes it: out of the queue, and then discarded, discarded as RX_CHECK,
or handed on. -/
theorem takeOldest_cases (mine : Received → Bool) (act : Received → State → State) :
    takeOldest mine act s = s ∨ ∃ t rest, s.line.queue = t :: rest ∧ mine t = true ∧
      let s' := s.onLine fun l => { l with queue := rest }
      (takeOldest mine act s = s'
        ∨ (s.ctrl.station.accepts t.kind = true ∧ takeOldest mine act s = record .rxCheck s')
        ∨ (s.ctrl.station.accepts t.kind = true ∧ lengthAdmitted t.kind t.payload = true ∧ takeOldest mine act s = act t s')) := by
  unfold takeOldest
  cases hq : s.line.queue with
  | nil => exact .inl rfl
  | cons t rest =>
    cases hm : mine t
    · exact .inl (by simp [hm])
    · refine .inr ⟨t, rest, rfl, hm, ?_⟩
      cases ha : s.ctrl.station.accepts t.kind
      · exact .inl (by simp [hm, ha])
      · cases hl : lengthAdmitted t.kind t.payload
        · exact .inr (.inl ⟨rfl, by simp [hm, ha, hl]⟩)
        · exact .inr (.inr ⟨rfl, rfl, by simp [hm, ha, hl]⟩)

/-- The handler hands on a telegram that stands at the front, is accepted and of an admitted length. -/
theorem takeOldest_acts (mine : Received → Bool) (act : Received → State → State) (t : Received) (rest : List Received)
    (hq : s.line.queue = t :: rest) (hm : mine t = true) (ha : s.ctrl.station.accepts t.kind = true)
    (hl : lengthAdmitted t.kind t.payload = true) :
    takeOldest mine act s = act t (s.onLine fun l => { l with queue := rest }) := by
  simp [takeOldest, hq, hm, ha, hl]

end Sys2Proof.Machine
end

