-- ==== Sys2Proof/Laws/Store.lean ====
section
/-! SUPPORT. What the operations of the section store can do, said once: parts entering group C, the start of a report, the
closing of a window, and a point placed in a bin list. -/

namespace Sys2Proof.Machine

variable (s : State)

/-- The head of a list changed. -/
def mapHead {α : Type} (f : α → α) : List α → List α
  | [] => []
  | a :: rest => f a :: rest

@[simp] theorem mapHead_nil {α : Type} (f : α → α) : mapHead f [] = [] := rfl
@[simp] theorem mapHead_cons {α : Type} (f : α → α) (a : α) (l : List α) : mapHead f (a :: l) = f a :: l := rfl

/-! ### Reports -/

/-- Parts entering group C change the head record's count of queued parts, group C within its capacity, and the transmission. -/
theorem enterParts_eq (n : Nat) : ∃ (q : SectionRecord → Nat) (c : List Telegram) (x : Option Transmission),
    enterParts n s = (s.onStore fun st => { st with records := mapHead (fun r => { r with partsQueued := q r }) st.records }).onLine
      (fun l => { l with groupC := c, tx := x }) ∧ (s.line.groupC.length ≤ 8 → c.length ≤ 8) := by
  induction n generalizing s with
  | zero =>
    refine ⟨fun r => r.partsQueued, s.line.groupC, s.line.tx, ?_, id⟩
    have : mapHead (fun r : SectionRecord => { r with partsQueued := r.partsQueued }) s.store.records = s.store.records := by
      cases s.store.records <;> rfl
    simp only [enterParts, State.onStore, State.onLine, this]
  | succ n ih =>
    rw [enterParts]
    have one : ∃ (q : SectionRecord → Nat) (c : List Telegram) (x : Option Transmission), enterPart s =
        (s.onStore fun st => { st with records := mapHead (fun r => { r with partsQueued := q r }) st.records }).onLine
          (fun l => { l with groupC := c, tx := x }) ∧ (s.line.groupC.length ≤ 8 → c.length ≤ 8) := by
      have stay : s = (s.onStore fun st =>
          { st with records := mapHead (fun r => { r with partsQueued := r.partsQueued }) st.records }).onLine
          (fun l => { l with groupC := s.line.groupC, tx := s.line.tx }) := by
        have : mapHead (fun r : SectionRecord => { r with partsQueued := r.partsQueued }) s.store.records = s.store.records := by
          cases s.store.records <;> rfl
        simp only [State.onStore, State.onLine, this]
      unfold enterPart
      split
      · rename_i r rest hr
        split
        · rename_i hc
          obtain ⟨x, hx⟩ := enqueue_eq (s.onStore fun st => { st with records := { r with partsQueued := r.partsQueued + 1 } :: rest })
            .c ⟨Config.everyStation, .report (r.part r.partsQueued)⟩
          refine ⟨fun r => r.partsQueued + 1, s.line.groupC ++ [⟨Config.everyStation, .report (r.part r.partsQueued)⟩], x, ?_, ?_⟩
          · rw [hx]
            simp only [State.onStore, State.onLine, Line.setGroup, Line.group, hr, mapHead_cons]
          · intro _
            simp only [State.hasRoom, Line.group_c, TxGroup.capacity, Config.groupCCapacity, Bool.and_eq_true,
              decide_eq_true_eq] at hc
            rw [List.length_append, List.length_singleton]
            exact of_decide_eq_true hc.2
        · exact ⟨_, _, _, stay, id⟩
      · exact ⟨_, _, _, stay, id⟩
    obtain ⟨q, c, x, h, hc⟩ := one
    obtain ⟨q', c', x', h', hc'⟩ := ih (enterPart s)
    refine ⟨fun r => q' { r with partsQueued := q r }, c', x', ?_, ?_⟩
    · rw [h', h]
      simp only [State.onStore, State.onLine]
      cases s.store.records <;> rfl
    · intro hs
      exact hc' (by rw [h]; exact hc hs)

/-- The start of a report: nothing, or the oldest record, READY, becomes SENDING, and parts enter group C within its capacity. -/
theorem startReport_cases : startReport s = s ∨ ∃ r rest q c x, s.store.records = r :: rest ∧ r.state = .ready ∧
    startReport s = (s.onStore fun st => { st with records := { r with state := .sending, partsQueued := q } :: rest }).onLine
      (fun l => { l with groupC := c, tx := x }) ∧ (s.line.groupC.length ≤ 8 → c.length ≤ 8) := by
  unfold startReport
  split
  · rename_i r rest hr
    split
    · rename_i hs
      obtain ⟨q, c, x, h, hc⟩ := enterParts_eq
        (s.onStore fun st => { st with records := { r with state := .sending, partsQueued := 0 } :: rest }) r.partCount
      exact .inr ⟨r, rest, q { r with state := .sending, partsQueued := 0 }, c, x, hr, hs, by rw [h]; rfl, hc⟩
    · exact .inl rfl
  · exact .inl rfl

/-- Nothing is reported while the oldest record is not READY. -/
theorem startReport_idle (h : ∀ r ∈ s.store.records.head?, r.state ≠ .ready) : startReport s = s := by
  obtain h' | ⟨r, rest, q, c, x, hr, hs, -, -⟩ := startReport_cases s
  · exact h'
  · rw [hr] at h; exact absurd hs (h r rfl)

/-- What a report's start leaves alone. -/
theorem startReport_keeps {α : Type} (g : State → α) (h : ∀ (t : State) rs c x,
    g ((t.onStore fun st => { st with records := rs }).onLine fun l => { l with groupC := c, tx := x }) = g t) :
    g (startReport s) = g s := by
  obtain h' | ⟨r, rest, q, c, x, -, -, h', -⟩ := startReport_cases s
  · rw [h']
  · rw [h', h]

@[simp] theorem startReport_odo : (startReport s).odo = s.odo := startReport_keeps s (·.odo) fun _ _ _ _ => rfl
@[simp] theorem startReport_conv : (startReport s).conv = s.conv := startReport_keeps s (·.conv) fun _ _ _ _ => rfl
@[simp] theorem startReport_seq : (startReport s).seq = s.seq := startReport_keeps s (·.seq) fun _ _ _ _ => rfl
@[simp] theorem startReport_echo : (startReport s).echo = s.echo := startReport_keeps s (·.echo) fun _ _ _ _ => rfl
@[simp] theorem startReport_env : (startReport s).env = s.env := startReport_keeps s (·.env) fun _ _ _ _ => rfl
@[simp] theorem startReport_watch : (startReport s).watch = s.watch := startReport_keeps s (·.watch) fun _ _ _ _ => rfl
@[simp] theorem startReport_ctrl : (startReport s).ctrl = s.ctrl := startReport_keeps s (·.ctrl) fun _ _ _ _ => rfl
@[simp] theorem startReport_recorder : (startReport s).recorder = s.recorder :=
  startReport_keeps s (·.recorder) fun _ _ _ _ => rfl
@[simp] theorem startReport_resetAsserted : (startReport s).resetAsserted = s.resetAsserted :=
  startReport_keeps s (·.resetAsserted) fun _ _ _ _ => rfl
@[simp] theorem startReport_pending : (startReport s).pending = s.pending := startReport_keeps s (·.pending) fun _ _ _ _ => rfl
@[simp] theorem startReport_queue : (startReport s).line.queue = s.line.queue :=
  startReport_keeps s (·.line.queue) fun _ _ _ _ => rfl
@[simp] theorem startReport_rx : (startReport s).line.rx = s.line.rx := startReport_keeps s (·.line.rx) fun _ _ _ _ => rfl
@[simp] theorem startReport_groupA : (startReport s).line.groupA = s.line.groupA :=
  startReport_keeps s (·.line.groupA) fun _ _ _ _ => rfl
@[simp] theorem startReport_groupB : (startReport s).line.groupB = s.line.groupB :=
  startReport_keeps s (·.line.groupB) fun _ _ _ _ => rfl

/-! ### The closing of a window -/

/-- A side that closes is CLOSED if it was AWAITED; the other side is as before. -/
theorem SectionRecord.closeSide_side (u : Setup) (sd sd' : Side) (r : SectionRecord) :
    (r.closeSide u sd).side sd' = if sd' = sd ∧ r.side sd = .awaited then .closed else r.side sd' := by
  unfold SectionRecord.closeSide
  split
  · rename_i h
    cases sd <;> cases sd' <;> simp_all [SectionRecord.setSide, SectionRecord.side]
  · rename_i h
    simp [h]

/-- The closing of a side changes the side and the marks of its bins. -/
theorem SectionRecord.closeSide_eq (u : Setup) (sd : Side) (r : SectionRecord) : ∃ bins x,
    r.closeSide u sd = ({ r with bins := bins } : SectionRecord).setSide sd x ∧ bins.map (·.bin) = r.bins.map (·.bin) := by
  unfold SectionRecord.closeSide
  split
  · refine ⟨_, _, rfl, ?_⟩
    rw [List.map_map]
    apply List.map_congr_left
    intro b _
    simp only [Function.comp, BinRecord.markUnpaired]
    split <;> (try split) <;> rfl
  · exact ⟨r.bins, r.side sd, by cases sd <;> rfl, rfl⟩

/-- A record closed: the same section, bins and summary, READY, its window stopped, its sides and marks apart. -/
theorem SectionRecord.close_eq (u : Setup) (r : SectionRecord) : ∃ bins x y,
    r.close u = { r with bins := bins, leftSide := x, rightSide := y, state := .ready, windowTimer := false }
      ∧ bins.map (·.bin) = r.bins.map (·.bin) := by
  obtain ⟨bins, x, h, hb⟩ := r.closeSide_eq u .left
  obtain ⟨bins', y, h', hb'⟩ := (r.closeSide u .left).closeSide_eq u .right
  refine ⟨bins', x, y, ?_, ?_⟩
  · rw [SectionRecord.close, h', h]; rfl
  · rw [hb', h]; exact hb

@[simp] theorem SectionRecord.close_number (u : Setup) (r : SectionRecord) : (r.close u).number = r.number := by
  obtain ⟨bins, x, y, h, -⟩ := r.close_eq u; rw [h]
@[simp] theorem SectionRecord.close_state (u : Setup) (r : SectionRecord) : (r.close u).state = .ready := rfl
@[simp] theorem SectionRecord.close_summary (u : Setup) (r : SectionRecord) : (r.close u).summary = r.summary := by
  obtain ⟨bins, x, y, h, -⟩ := r.close_eq u; rw [h]

/-- A closed record awaits no neighbour. -/
theorem SectionRecord.close_awaits (u : Setup) (r : SectionRecord) : (r.close u).awaits = false := by
  have hl : (r.close u).side .left ≠ .awaited := by
    show ((r.closeSide u .left).closeSide u .right).side .left ≠ _
    rw [SectionRecord.closeSide_side, if_neg (by simp), SectionRecord.closeSide_side]
    split <;> simp_all
  have hr : (r.close u).side .right ≠ .awaited := by
    show ((r.closeSide u .left).closeSide u .right).side .right ≠ _
    rw [SectionRecord.closeSide_side]
    split <;> simp_all
  simp only [SectionRecord.side] at hl hr
  simp [SectionRecord.awaits, hl, hr]

/-! ### Bin lists -/

/-- A point placed adds at most one record to a bin list (R79). -/
theorem placeInBins_length_le (bin warn : Nat) (c : Option Int) (p : PointRecord) (bins : List BinRecord) :
    (placeInBins bin warn c p bins).length ≤ bins.length + 1 := by
  induction bins with
  | nil => exact Nat.le_refl 1
  | cons b rest ih =>
    unfold placeInBins
    split
    · exact Nat.le_succ _
    · split
      · exact Nat.le_refl _
      · exact Nat.succ_le_succ ih

end Sys2Proof.Machine
end

