-- ==== Sys2Proof/Laws/Kept.lean ====
section
/-! SUPPORT. What every operation and every command keeps, said once for any property of the state: a property that the update of one
block and the recording of an error kind keep is kept by every operation built from them. `kept_exec` joins them over the commands, and
`keptByEveryStep_of_exec` over the step. -/

namespace Sys2Proof.Machine

/-- The property survives any update of the converter, sequencer, echo processor, store, watch unit and line, and any error
recorded. -/
structure KeptByBlocks (Q : State → Prop) : Prop where
  conv  : ∀ s f, Q s → Q (s.onConv f)
  seq   : ∀ s f, Q s → Q (s.onSeq f)
  echo  : ∀ s f, Q s → Q (s.onEcho f)
  store : ∀ s f, Q s → Q (s.onStore f)
  watch : ∀ s f, Q s → Q (s.onWatch f)
  line  : ∀ s f, Q s → Q (s.onLine f)
  rcd   : ∀ s k, Q s → Q (record k s)

/-- The property also survives any update of the odometry unit. -/
structure KeptByOdometry (Q : State → Prop) : Prop extends KeptByBlocks Q where
  odo : ∀ s f, Q s → Q (s.onOdo f)

/-- The property survives the entry to HALTED from RUN. -/
def KeptByHalt (Q : State → Prop) : Prop :=
  ∀ s : State, Q s → s.ctrl.station = .run → Q (s.onCtrl fun c => { c with station := .halted })

/-- The property survives the entry to CONFIG, with the attention output following. -/
def KeptByConfig (Q : State → Prop) : Prop :=
  ∀ s : State, Q s → Q (s.onCtrl fun c => { c with station := .config }).followAttention

/-- The property survives the storing of a SETUP item in CONFIG. -/
def KeptByItem (Q : State → Prop) : Prop :=
  ∀ (s : State) (p : List Byte), Q s → s.ctrl.station = .config → (itemLength (byteAt p 0)).isSome = true →
    Q (s.onCtrl fun c => { c with
      setup := c.setup.storeItem p, marks := c.marks ||| BitVec.ofNat 32 (2 ^ (byteAt p 0 - 1)) })

/-- The property also survives what START does to station control and the envelope table, and the entry to HALTED. -/
structure KeptByStation (Q : State → Prop) : Prop extends KeptByOdometry Q where
  env  : ∀ (s : State) e, Q s → s.ctrl.station = .config → Q { s with env := e }
  halt : KeptByHalt Q
  run  : ∀ s : State, Q s → (s.ctrl.station = .config ∨ s.ctrl.station = .halted) →
    Q (s.onCtrl fun c => { c with station := .run })
  fail : ∀ (s : State) x, Q s → s.ctrl.station = .config → Q (s.onCtrl fun c => { c with failingItem := x })

/-! ### Operations of the blocks -/

/-- The end of a transmission leaves station control alone. -/
theorem abandonTx_ctrl (s : State) : (abandonTx s).ctrl = s.ctrl := by
  unfold abandonTx popGroup refillA
  split
  · rfl
  · dsimp only; split
    · split
      · split
        · rfl
        · rename_i t rest _
          obtain ⟨x, hx⟩ := enqueue_eq (((s.onLine fun l => { l with tx := none }).onLine
            fun l => l.setGroup .a (l.group .a).tail).onWatch fun w => { (w.setOwed t false) with owed := rest }) .a t
          rw [hx]; rfl
      · rfl
    · rfl

/-- A later step of an event keeps what its effect keeps. -/
theorem kept_whileRun {Q : State → Prop} {s : State} {f : State → State} (h : Q s) (hf : Q (f s)) : Q (whileRun f s) :=
  whileRun_keeps (P := Q) s h fun _ => hf

/-- A list of effects keeps what each effect keeps. -/
theorem kept_foldl {Q : State → Prop} {s : State} {α : Type} (l : List α) (f : State → α → State)
    (hf : ∀ s a, Q s → Q (f s a)) (h : Q s) : Q (l.foldl f s) := by
  induction l generalizing s with
  | nil => exact h
  | cons a l ih => exact ih (hf s a h)

section
variable {Q : State → Prop} (K : KeptByBlocks Q) {s : State}
include K

theorem kept_offer (h : Q s) : Q (offer s) := by
  obtain ⟨x, hx⟩ := offer_eq s; rw [hx]; exact K.line _ _ h

theorem kept_enqueue {g t} (h : Q s) : Q (enqueue g t s) := by
  obtain ⟨x, hx⟩ := enqueue_eq s g t; rw [hx]; exact K.line _ _ h

theorem kept_produceA {t} (h : Q s) : Q (produceA t s) := by
  obtain ⟨r, e⟩ | ⟨r, -, e⟩ | ⟨r, e⟩ := produceA_cases s t <;> rw [e]
  · exact kept_enqueue K h
  · exact K.rcd _ _ h
  · exact K.watch _ _ h

theorem kept_refillA (h : Q s) : Q (refillA s) := by
  obtain ⟨-, e⟩ | ⟨t, rest, -, e⟩ := refillA_cases s <;> rw [e]
  · exact h
  · exact kept_enqueue K (K.watch _ _ h)

theorem kept_abandonTx (h : Q s) : Q (abandonTx s) := by
  unfold abandonTx popGroup
  split
  · exact h
  · dsimp only
    split
    · split
      · exact kept_refillA K (K.line _ _ (K.line _ _ h))
      · exact K.line _ _ (K.line _ _ h)
    · exact K.line _ _ h

theorem kept_completeDrain (h : Q s) : Q (completeDrain s) := by
  unfold completeDrain; dsimp only; apply K.store; split
  · exact kept_produceA K h
  · exact h

theorem kept_startReport (h : Q s) : Q (startReport s) := by
  obtain e | ⟨r, rest, q, c, x, -, -, e, hc⟩ := startReport_cases s <;> rw [e]
  · exact h
  · exact K.line _ _ (K.store _ _ h)

theorem kept_enterParts {n} (h : Q s) : Q (enterParts n s) := by
  obtain ⟨q, c, x, e, hc⟩ := enterParts_eq s n
  rw [e]; exact K.line _ _ (K.store _ _ h)

theorem kept_removeOldest (h : Q s) : Q (removeOldest s) := by
  unfold removeOldest
  split
  · apply kept_startReport K
    split
    · exact kept_completeDrain K (K.store _ _ h)
    · exact K.store _ _ h
  · exact h

theorem kept_reportPartDone {p} (h : Q s) : Q (reportPartDone p s) := by
  unfold reportPartDone
  split
  · split
    · have : Q (enterPart s) := kept_enterParts K (n := 1) h
      dsimp only
      split
      · exact kept_removeOldest K this
      · exact this
    · exact h
  · exact h

theorem kept_countWindows (h : Q s) : Q (countWindows s) := by
  unfold countWindows; split
  · exact kept_startReport K (K.store _ _ h)
  · exact h
  · exact h

theorem kept_endSweep (h : Q s) : Q (endSweep s) := K.echo _ _ (K.seq _ _ h)

theorem kept_abortSection (h : Q s) : Q (abortSection s) := by
  unfold abortSection; split
  · exact h
  · exact K.store _ _ (K.conv _ _ (kept_endSweep K h))

theorem kept_edgeToSide {sd e} (h : Q s) : Q (edgeToSide sd e s) := by
  unfold edgeToSide sendEdge
  split
  · split
    · exact kept_enqueue K h
    · exact K.rcd _ _ h
  · exact h

theorem kept_sendGapEdges {n} (h : Q s) : Q (sendGapEdges n s) := by
  unfold sendGapEdges
  have := kept_whileRun h (kept_edgeToSide K (sd := .left) (e := { number := n, side := .both, gap := true, entries := [] }) h)
  exact kept_whileRun this (kept_edgeToSide K this)

theorem kept_sendEdges {r} (h : Q s) : Q (sendEdges r s) := by
  unfold sendEdges
  have := kept_whileRun h (kept_edgeToSide K (sd := .left) (e := r.edgeBody s.ctrl.setup .left) h)
  exact kept_whileRun this (kept_edgeToSide K this)

theorem kept_endRecord {c r} (h : Q s) : Q (endRecord c r s) := by
  unfold endRecord; split
  · exact h
  · split
    · exact K.rcd _ _ (K.watch _ _ h)
    · exact kept_produceA K h

theorem kept_confirmOrWait {c r} (h : Q s) : Q (confirmOrWait c r s) := by
  unfold confirmOrWait; dsimp only
  by_cases hc : (if s.watch.corroborates r.first r.last = true then 1 else s.ctrl.setup.watchItem.confirm) ≤ r.confirm
  · rw [if_pos hc]; split
    · exact K.watch _ _ h
    · exact kept_produceA K (K.watch _ _ (K.watch _ _ h))
  · rw [if_neg hc]; exact K.watch _ _ h

theorem kept_advanceMerged {c r} (h : Q s) : Q (advanceMerged c r s) := by
  unfold advanceMerged; split
  · exact kept_confirmOrWait K h
  all_goals exact K.watch _ _ h

theorem kept_updateGroup {c g} (h : Q s) : Q (updateGroup c g s) := by
  unfold updateGroup; split
  · exact h
  · dsimp only
    refine kept_whileRun ?_ (kept_advanceMerged K ?_) <;>
    · apply kept_foldl
      · intro s a h; exact kept_whileRun h (kept_endRecord K h)
      · exact K.watch _ _ h

theorem kept_moveUnmatched {c b r} (h : Q s) : Q (moveUnmatched c b r s) := by
  unfold moveUnmatched easeRecord
  dsimp only
  split
  · exact h
  · split
    · exact K.watch _ _ h
    all_goals (split; (split; exact kept_endRecord K (K.watch _ _ h); exact K.watch _ _ h); exact h)

theorem kept_createLocal {c sp} (h : Q s) : Q (createLocal c sp s) := by
  unfold createLocal; split
  · exact K.rcd _ _ h
  · exact kept_confirmOrWait K h

theorem kept_evaluateSection {c b} (h : Q s) : Q (evaluateSection c b s) := by
  unfold evaluateSection
  dsimp only
  refine kept_whileRun ?_ ?_
  all_goals
    try apply K.watch
    apply kept_foldl
    · intro s a h; exact kept_whileRun h (kept_createLocal K h)
    · apply kept_foldl
      · intro s a h; exact kept_whileRun h (kept_moveUnmatched K h)
      · apply kept_foldl _ _ _ h; intro s a h; exact kept_whileRun h (kept_updateGroup K h)

theorem kept_completeSweep (h : Q s) : Q (completeSweep s) := by
  unfold completeSweep
  dsimp only
  have h1 : Q (closeSweep s) := K.conv _ _ (kept_endSweep K h)
  split
  · exact h1
  · apply kept_startReport K
    apply K.store
    rename_i r _
    have h2 : Q ((closeSweep s).onSweeping fun r => { r with state := .held }) := K.store _ _ h1
    have h3 := K.store _ (fun st => st.modify r.number (SectionRecord.applyHeldEdges
      (sendEdges r ((closeSweep s).onSweeping fun r => { r with state := .held })).ctrl.setup
      (sendEdges r ((closeSweep s).onSweeping fun r => { r with state := .held })).ctrl.ownNumber.toNat))
      (kept_sendEdges K (r := r) h2)
    exact kept_whileRun h3 (kept_evaluateSection K h3)

theorem kept_startGroup {k} (h : Q s) : Q (startGroup k s) := by
  unfold startGroup; split
  · exact kept_completeSweep K h
  · exact K.echo _ _ (K.seq _ _ h)

theorem kept_startSweep (h : Q s) : Q (startSweep s) := by
  unfold startSweep; dsimp only; split
  · exact kept_startGroup K (K.echo _ _ (K.seq _ _ (K.store _ _ h)))
  · exact h

theorem kept_settleChannel {c} (h : Q s) : Q (settleChannel c s) := by unfold settleChannel; split; exact K.conv _ _ h; exact h

theorem kept_triggerSection {n} (h : Q s) : Q (triggerSection n s) := by
  unfold triggerSection handleTrigger skipSection
  have := kept_countWindows K h
  split
  · exact kept_sendGapEdges K (K.store _ _ this)
  · split
    · exact kept_sendGapEdges K (K.store _ _ this)
    · split
      · exact kept_sendGapEdges K (K.store _ _ (K.rcd _ _ this))
      · split
        · exact kept_sendGapEdges K (K.store _ _ (K.rcd _ _ this))
        · unfold startSection beginSectionScan; exact K.seq _ _ (kept_settleChannel K (K.conv _ _ (K.store _ _ this)))

theorem kept_takeOldest {m act} (hact : ∀ t s, s.ctrl.station.accepts t.kind = true → Q s → Q (act t s)) (h : Q s) :
    Q (takeOldest m act s) := by
  obtain e | ⟨t, rest, hq, -, e | ⟨-, e⟩ | ⟨ha, -, e⟩⟩ := takeOldest_cases s m act
  · rw [e]; exact h
  all_goals
    have h' : Q (s.onLine fun l => { l with queue := rest }) := K.line _ _ h
    rw [e]
  · exact h'
  · exact K.rcd _ _ h'
  · exact hact t _ ha h'

theorem kept_handleEdge {t} (h : Q s) : Q (handleEdge t s) := by
  unfold handleEdge edgeMeets
  split
  · exact K.rcd _ _ h
  · split
    · exact K.rcd _ _ h
    · split
      · exact K.rcd _ _ h
      · split
        · split
          · exact K.store _ _ h
          · exact K.rcd _ _ h
        · split
          · exact kept_startReport K (K.store _ _ h)
          · exact K.rcd _ _ h
        · exact K.rcd _ _ h
        · exact K.rcd _ _ h

theorem kept_handleRaise {t} (h : Q s) : Q (handleRaise t s) := by
  unfold handleRaise corroborateRaised notePeer
  dsimp only
  split
  · exact h
  · apply K.watch
    split
    · exact K.watch _ _ h
    · split
      · exact h
      · split
        · split
          · exact K.rcd _ _ h
          · exact K.watch _ _ h
        · exact h

theorem kept_handleEnd {t} (h : Q s) : Q (handleEnd t s) := by
  unfold handleEnd; dsimp only; exact K.watch _ _ h

theorem kept_handleDrain {t} (h : Q s) : Q (handleDrain t s) := by
  unfold handleDrain; dsimp only; split
  · exact K.store _ _ (K.store _ _ h)
  · split
    · exact K.store _ _ h
    · exact kept_completeDrain K (K.store _ _ (K.store _ _ h))

theorem kept_handleStatusReq {t} (h : Q s) : Q (handleStatusReq t s) := by
  unfold handleStatusReq; split
  · exact kept_enqueue K h
  · exact K.rcd _ _ h

theorem kept_takeCant {a c} (h : Q s) : Q (takeCant a c s) := by
  unfold takeCant; dsimp only; split
  · exact K.conv _ _ h
  · exact K.rcd _ _ (K.conv _ _ h)

theorem kept_cantCompleted {c} (h : Q s) : Q (cantCompleted c s) := by
  unfold cantCompleted; split
  · exact h
  · split
    · dsimp only; apply kept_settleChannel K; split
      · exact kept_startSweep K (kept_takeCant K h)
      · exact kept_takeCant K h
    · exact h

theorem kept_supplyCompleted {c} (h : Q s) : Q (supplyCompleted c s) := by
  unfold supplyCompleted takeSupply; split
  · exact h
  · split
    · apply kept_settleChannel K; split
      · split
        · exact K.conv _ _ h
        · exact h
      · split
        · exact K.rcd _ _ (K.conv _ _ h)
        · exact h
    · exact h

theorem kept_tempCompleted {c} (h : Q s) : Q (tempCompleted c s) := by
  unfold tempCompleted takeTemp completeScan; split
  · exact h
  · split
    · apply K.conv; split
      · split
        · exact K.conv _ _ h
        · exact h
      · split
        · exact K.rcd _ _ (K.conv _ _ h)
        · exact h
    · exact h

theorem kept_placePoint {p} (h : Q s) : Q (placePoint p s) := by
  unfold placePoint; dsimp only; split
  · exact K.store _ _ h
  · exact K.store _ _ (K.store _ _ h)

theorem kept_disposeMember {v f g o m} (h : Q s) : Q (disposeMember v f g o m s).2 := by
  unfold disposeMember
  dsimp only
  have t : ∀ (l : List EchoRecord) acc, Q acc.2 → Q (l.foldl (testHeld v g o) acc).2 := by
    intro l; induction l with
    | nil => intro acc h; exact h
    | cons e l ih =>
      intro acc h; rw [List.foldl_cons]; apply ih; unfold testHeld; split
      · dsimp only; exact K.store _ _ h
      · dsimp only; exact K.store _ _ h
      · exact h
  split
  · dsimp only; exact K.store _ _ (t _ ([], s) h)
  · exact kept_foldl _ _ (fun s a h => kept_placePoint K h) (t _ ([], s) h)

theorem kept_closeGroup (h : Q s) : Q (closeGroup s).2 := by
  unfold closeGroup
  split
  · rename_i ms g v w tb h1 h2 h3 h4 h5
    dsimp only
    apply K.echo
    have : ∀ (l : List Member) (acc : List HandBack × State), Q acc.2 → Q (l.foldl
      (fun (acc : List HandBack × State) m =>
        let offset := if h : m.element < 64 then tb[m.element].offset else 0
        let d := disposeMember v w.forwardSuspect g offset m acc.2
        (acc.1 ++ [d.1], d.2)) acc).2 := by
      intro l; induction l with
      | nil => intro acc h; exact h
      | cons e l ih => intro acc h; rw [List.foldl_cons]; exact ih _ (kept_disposeMember K h)
    exact this _ ([], s) h
  · dsimp only; exact K.echo _ _ h

theorem kept_adaptGroup {b} (h : Q s) : Q (adaptGroup b s) := by
  unfold adaptGroup; split
  · split
    · exact h
    · exact kept_foldl _ _ (fun s a h => K.seq _ _ h) h
  · exact h

theorem kept_foreignEcho (h : Q s) : Q (foreignEcho s) := by
  unfold foreignEcho; dsimp only; split
  · exact h
  · split
    · exact K.rcd _ _ (K.store _ _ h)
    · exact K.store _ _ h

theorem kept_echoArrives {e} (h : Q s) : Q (echoArrives e s) := by
  unfold echoArrives acceptEcho; split
  · exact h
  · exact kept_foreignEcho K h
  · exact kept_foreignEcho K h
  · split
    · exact h
    · split
      · exact kept_foreignEcho K h
      · split
        · exact kept_foreignEcho K (K.echo _ _ h)
        · exact K.echo _ _ h

theorem kept_lineIdles (h : Q s) : Q (lineIdles s) := by
  unfold lineIdles; split
  · exact kept_offer K (K.line _ _ h)
  · exact h

theorem kept_headerEnds {a} (h : Q s) : Q (headerEnds a s) := by
  unfold headerEnds; split
  · split
    · exact h
    · split
      · exact K.rcd _ _ (K.line _ _ h)
      · split <;> exact K.line _ _ h
  all_goals exact h

theorem kept_telegramEnds {a b} (h : Q s) : Q (telegramEnds a b s) := by
  unfold telegramEnds; split
  · split
    · dsimp only; split
      · exact K.line _ _ h
      · split
        · exact K.rcd _ _ (K.line _ _ h)
        · split
          · exact K.rcd _ _ (K.line _ _ h)
          · exact K.line _ _ (K.line _ _ h)
    · exact h
  all_goals exact h

theorem kept_quietSpellSeen {a b} (h : Q s) : Q (quietSpellSeen a b s) := by
  unfold quietSpellSeen; split
  · split
    · exact K.rcd _ _ (K.line _ _ h)
    · exact h
  all_goals exact h

theorem kept_contentionIsLost (h : Q s) : Q (contentionIsLost s) := by
  unfold contentionIsLost; split
  · apply kept_abandonTx K; split
    · exact h
    all_goals exact K.line _ (fun l => { l with rx := .receiving s.ctrl.setup.lineTimeout none }) h
  · exact h

theorem kept_readbackMismatches (h : Q s) : Q (readbackMismatches s) := by
  unfold readbackMismatches; split
  · exact K.line _ _ (kept_abandonTx K (K.line _ _ h))
  · exact h

theorem kept_readbackTransitionSeen (h : Q s) : Q (readbackTransitionSeen s) := by
  unfold readbackTransitionSeen; split
  · exact K.rcd _ _ (K.line _ _ h)
  · exact h

theorem kept_transmissionCompletes (h : Q s) : Q (transmissionCompletes s) := by
  unfold transmissionCompletes; split
  · exact h
  · rename_i t ht
    dsimp only
    have hp : Q (setRx .idleWait (popGroup t.group (s.onLine fun l => { l with tx := none }))) :=
      K.line _ _ (K.line _ _ (K.line _ _ h))
    split
    · exact kept_refillA K hp
    · split
      · exact hp
      · exact kept_reportPartDone K hp
    · exact hp

theorem kept_settleExpired (h : Q s) : Q (settleExpired s) := by
  unfold settleExpired; split
  · exact K.conv _ _ h
  all_goals exact h

theorem kept_intervalExpired (h : Q s) : Q (intervalExpired s) := by
  unfold intervalExpired; split
  · dsimp only; split
    · exact kept_settleChannel K (K.conv _ _ (K.conv _ _ h))
    · exact K.conv _ _ h
  · exact h

theorem kept_dwellExpired (h : Q s) : Q (dwellExpired s) := by
  unfold dwellExpired; split
  · exact K.seq _ _ (kept_adaptGroup K (kept_closeGroup K (K.seq _ _ h)))
  all_goals exact h

theorem kept_gapExpired (h : Q s) : Q (gapExpired s) := by
  unfold gapExpired; split
  · exact kept_startGroup K h
  all_goals exact h

theorem kept_windowTimerExpired {a} (h : Q s) : Q (windowTimerExpired a s) := by
  unfold windowTimerExpired; split
  · split
    · exact kept_startReport K (K.store _ _ h)
    · exact h
  · exact h

theorem kept_firstTransitionSeen (h : Q s) : Q (firstTransitionSeen s) := by
  unfold firstTransitionSeen; split
  · exact K.line _ (fun l => { l with rx := .receiving s.ctrl.setup.lineTimeout none }) h
  · exact h
end

/-! ### Station control and the odometry unit -/

section
variable {Q : State → Prop} (K : KeptByOdometry Q) {s : State}
include K

theorem kept_enterHalted (hH : KeptByHalt Q) (h : Q s) (hr : s.ctrl.station = .run) : Q (enterHalted s) := by
  unfold enterHalted closeHeld
  dsimp only
  apply K.watch
  apply kept_startReport K.toKeptByBlocks
  apply K.store
  unfold abortForHalt
  dsimp only
  split
  · exact kept_completeDrain K.toKeptByBlocks (kept_abortSection K.toKeptByBlocks (hH _ h hr))
  · exact kept_abortSection K.toKeptByBlocks (hH _ h hr)

theorem kept_thresholdCrossed (h : Q s) : Q (thresholdCrossed s) := by
  unfold thresholdCrossed advanceNumber
  split
  · exact h
  · dsimp only
    split
    · exact kept_countWindows K.toKeptByBlocks (K.odo _ _ h)
    · split
      · exact K.rcd _ _ (K.odo _ _ (K.odo _ _ (kept_triggerSection K.toKeptByBlocks h)))
      · exact K.odo _ _ (K.odo _ _ (kept_triggerSection K.toKeptByBlocks h))

theorem kept_pairSampled {p} (h : Q s) : Q (pairSampled p s) := by
  unfold pairSampled stepForward stepBackward
  dsimp only
  split
  · exact h
  · apply K.odo
    split
    · exact K.rcd _ _ h
    · split
      · split
        · split
          · exact K.rcd _ _ h
          · split
            · exact kept_thresholdCrossed K (K.odo _ _ h)
            · exact K.odo _ _ h
        · split
          · exact K.rcd _ _ h
          · exact K.odo _ _ h
      · exact h

theorem kept_handleRestart (hR : KeptByConfig Q) {t} (h : Q s) : Q (handleRestart t s) := by
  unfold handleRestart
  dsimp only
  have := hR _ h
  have e : ∀ s : State, s.followAttention.onLine Line.restart = (s.onLine Line.restart).followAttention := fun _ => rfl
  have e2 : ∀ (s : State) f, s.followAttention.onWatch f = (s.onWatch f).followAttention := fun _ _ => rfl
  have e3 : ∀ (s : State) f, s.followAttention.onStore f = (s.onStore f).followAttention := fun _ _ => rfl
  have e4 : ∀ (s : State) f, s.followAttention.onConv f = (s.onConv f).followAttention := fun _ _ => rfl
  have e5 : ∀ (s : State) f, s.followAttention.onOdo f = (s.onOdo f).followAttention := fun _ _ => rfl
  have e6 : ∀ (s : State), endSweep s.followAttention = (endSweep s).followAttention := fun _ => rfl
  rw [← e, ← e2, ← e3, ← e4]
  apply K.line; apply K.watch; apply K.store; apply K.conv
  split
  · rw [← e5]; exact K.odo _ _ this
  · rw [← e6, ← e5]; exact kept_endSweep K.toKeptByBlocks (K.odo _ _ this)

theorem kept_handleSetup (hS : KeptByItem Q) {t} (h : Q s) : Q (handleSetup t s) := by
  unfold handleSetup storeSetup; dsimp only; split
  · rename_i hc
    split
    · exact K.conv _ _ (hS _ _ h hc.1 hc.2)
    · exact hS _ _ h hc.1 hc.2
  · exact K.rcd _ _ h

theorem kept_localStopFalls (hH : KeptByHalt Q) (h : Q s) : Q (localStopFalls s) := by
  unfold localStopFalls; split
  · rename_i hr
    refine kept_enterHalted K hH (kept_abandonTx K.toKeptByBlocks (K.line _ _ h)) ?_
    rw [abandonTx_ctrl]; exact hr
  · exact h

theorem kept_breakSeen (hH : KeptByHalt Q) (h : Q s) : Q (breakSeen s) := by
  unfold breakSeen; dsimp only
  have : Q ((abandonTx (setRx .idleWait s)).onLine fun l => { l with judging := false }) :=
    K.line _ _ (kept_abandonTx K.toKeptByBlocks (K.line _ _ h))
  split
  · rename_i hr; exact kept_enterHalted K hH this hr
  · exact this

/-- Every command keeps a property that survives the updates, given what the commands of station control do to it. -/
theorem kept_exec {i : Instr} {t : State} 
    (hH : (i = .localStop ∨ i = .breakDetected) → KeptByHalt Q)
    (hT : i = .start → ∀ t s, Q s → Q (handleStart t s)) (hS : i = .setup → ∀ t s, Q s → Q (handleSetup t s))
    (hR : i = .restart → ∀ t s, Q s → Q (handleRestart t s)) (hC : i = .clear → ∀ t s, Q s → Q (handleClear t s))
    (hP : ∀ a b, i = .powerOrPinReset a b → Q (afterReset a b s)) (hA : i = .resetAsserted → Q (assertReset s)) (h : Q s)
    (he : exec i s = .next t) : Q t := by
  have E : ∀ f : State → State, live f s = .next t → (Q s → Q (f s)) → Q t := by
    intro f e hf; exact live_next (P := Q) s e h (fun _ => hf h)
  cases i <;> simp only [exec] at he
  case powerOrPinReset a b => cases he; exact hP _ _ rfl
  case resetAsserted => cases he; exact hA rfl
  case phaseTransition => exact E _ he (kept_pairSampled K)
  case localStop => exact E _ he (kept_localStopFalls K (hH (by simp)))
  case breakSendEnd => exact E _ he (K.line _ _)
  case breakDetected => exact E _ he (kept_breakSeen K (hH (by simp)))
  case lineIdle => exact E _ he (kept_lineIdles K.toKeptByBlocks)
  case headerEnd => exact E _ he (kept_headerEnds K.toKeptByBlocks)
  case checkSequenceEnd => exact E _ he (kept_telegramEnds K.toKeptByBlocks)
  case quietSpell => exact E _ he (kept_quietSpellSeen K.toKeptByBlocks)
  case contentionLost => exact E _ he (kept_contentionIsLost K.toKeptByBlocks)
  case readbackMismatch => exact E _ he (kept_readbackMismatches K.toKeptByBlocks)
  case readbackTransition => exact E _ he (kept_readbackTransitionSeen K.toKeptByBlocks)
  case transmissionCompletion => exact E _ he (kept_transmissionCompletes K.toKeptByBlocks)
  case setup => exact E _ he (kept_takeOldest K.toKeptByBlocks fun t s _ => hS rfl t s)
  case start => exact E _ he (kept_takeOldest K.toKeptByBlocks fun t s _ => hT rfl t s)
  case restart => exact E _ he (kept_takeOldest K.toKeptByBlocks fun t s _ => hR rfl t s)
  case edge => exact E _ he (kept_takeOldest K.toKeptByBlocks fun _ _ _ => kept_handleEdge K.toKeptByBlocks)
  case alertRaise => exact E _ he (kept_takeOldest K.toKeptByBlocks fun _ _ _ => kept_handleRaise K.toKeptByBlocks)
  case alertEnd => exact E _ he (kept_takeOldest K.toKeptByBlocks fun _ _ _ => kept_handleEnd K.toKeptByBlocks)
  case statusReq => exact E _ he (kept_takeOldest K.toKeptByBlocks fun _ _ _ => kept_handleStatusReq K.toKeptByBlocks)
  case clear => exact E _ he (kept_takeOldest K.toKeptByBlocks fun t s _ => hC rfl t s)
  case drain => exact E _ he (kept_takeOldest K.toKeptByBlocks fun _ _ _ => kept_handleDrain K.toKeptByBlocks)
  case settleExpiry => exact E _ he (kept_settleExpired K.toKeptByBlocks)
  case cantCompletion => exact E _ he (kept_cantCompleted K.toKeptByBlocks)
  case supplyCompletion => exact E _ he (kept_supplyCompleted K.toKeptByBlocks)
  case tempCompletion => exact E _ he (kept_tempCompleted K.toKeptByBlocks)
  case scanIntervalExpiry => exact E _ he (kept_intervalExpired K.toKeptByBlocks)
  case dwellExpiry => exact E _ he (kept_dwellExpired K.toKeptByBlocks)
  case gapExpiry => exact E _ he (kept_gapExpired K.toKeptByBlocks)
  case echoRecord => exact E _ he (kept_echoArrives K.toKeptByBlocks)
  case windowTimerExpiry => exact E _ he (kept_windowTimerExpired K.toKeptByBlocks)
  case firstTransition => exact E _ he (kept_firstTransitionSeen K.toKeptByBlocks)
end

/-! ### Station control and the odometry unit -/

section
variable {Q : State → Prop} (K : KeptByStation Q) {s : State}
include K

theorem kept_handleStart {t} (h : Q s) : Q (handleStart t s) := by
  unfold handleStart enterRun startOdometry
  split
  · split
    · rename_i hc _ _ _; exact K.rcd _ _ (K.fail _ _ h hc)
    · rename_i hc _ _
      dsimp only
      apply K.odo
      apply kept_triggerSection K.toKeptByBlocks
      apply K.odo
      refine K.run _ (K.watch _ _ (K.seq _ _ (K.env _ _ (K.fail _ _ h hc) (by simpa using hc)))) ?_
      simp [hc]
  · rename_i hc; exact K.run _ h (.inr hc)
  all_goals exact h

end

/-- A property that every command keeps, whatever waits in the queue, is kept by every step. -/
theorem keptByEveryStep_of_exec {Q : State → Prop} (hp : ∀ (s : State) q, Q s → Q { s with pending := q })
    (he : ∀ i s t, Q s → exec i s = .next t → Q t) : KeptByEveryStep Q := by
  intro s t h e
  unfold step at e
  split at e
  · cases e; exact h
  · exact he _ _ _ (hp _ _ h) e

end Sys2Proof.Machine
end

