-- ==== Sys2Proof/Laws/Events.lean ====
section
/-! SUPPORT. What the operations inside an event can do, said once: a kind that is not FATAL, the handler's taking of an admitted
telegram, trigger counting, the sending of edges, the parts of a report, the confirmation of a watch record, the counted steps. -/

namespace Sys2Proof.Machine

variable (s : State)

/-! ### Recording a kind that is not FATAL -/

/-- A kind that is not FATAL, or is masked, changes the fault recorder alone. -/
theorem record_notFatal (k : ErrKind) (h : ¬ s.ctrl.setup.fatal k) : ∃ f, record k s = s.onRecorder f := by
  obtain ⟨-, e⟩ | ⟨-, e⟩ | ⟨⟨a, b, _⟩, e⟩ := record_cases s k
  · exact ⟨_, e⟩
  · exact ⟨fun r => { (r.count k).fill k with attention := (record k s).recorder.attention }, by rw [e]; rfl⟩
  · exact absurd ⟨b, a⟩ h

/-- After a kind is recorded, station control is as before or in FAULT. -/
theorem record_ctrl (k : ErrKind) : (record k s).ctrl = s.ctrl ∨ (record k s).ctrl = { s.ctrl with station := .fault } := by
  obtain ⟨-, e⟩ | ⟨-, e⟩ | ⟨-, e⟩ := record_cases s k <;> rw [e]
  · exact .inl rfl
  · exact .inl rfl
  · right; simp

/-- The kind recorded is seen, and a kind seen before is still seen. -/
theorem record_seen (k : ErrKind) : (record k s).recorder.kinds[k.index].seen = true ∧
    ∀ j : Fin 16, s.recorder.kinds[j].seen = true → (record k s).recorder.kinds[j].seen = true := by
  refine ⟨by rw [record_kinds]; simp [Vector.getElem_set_self], fun j hj => ?_⟩
  rw [record_kinds]
  by_cases h : k.index = j
  · subst h; simp [Vector.getElem_set_self]
  · have : k.index.val ≠ j.val := fun e => h (Fin.ext e)
    simpa [Vector.getElem_set_ne, this] using hj

/-! ### The handler -/

/-- A telegram of an accepted kind and an admitted length, at the front of the queue, is handed on with the queue's rest. -/
theorem takeOldest_handled (mine : Received → Bool) (act : Received → State → State) (t : Received) (rest : List Received)
    (hq : s.line.queue = t :: rest) (hm : mine t = true) (ha : s.ctrl.station.accepts t.kind = true)
    (hl : lengthAdmitted t.kind t.payload = true) : takeOldest mine act s = act t (s.withQueue rest) := by
  rw [takeOldest_acts s mine act t rest hq hm ha hl]; rfl

@[simp] theorem State.withQueue_ctrl (rest : List Received) : (s.withQueue rest).ctrl = s.ctrl := rfl
@[simp] theorem State.withQueue_store (rest : List Received) : (s.withQueue rest).store = s.store := rfl
@[simp] theorem State.withQueue_watch (rest : List Received) : (s.withQueue rest).watch = s.watch := rfl
@[simp] theorem State.withQueue_odo (rest : List Received) : (s.withQueue rest).odo = s.odo := rfl
@[simp] theorem State.withQueue_seq (rest : List Received) : (s.withQueue rest).seq = s.seq := rfl
@[simp] theorem State.withQueue_conv (rest : List Received) : (s.withQueue rest).conv = s.conv := rfl
@[simp] theorem State.withQueue_recorder (rest : List Received) : (s.withQueue rest).recorder = s.recorder := rfl

/-! ### Trigger counting -/

@[simp] theorem countWindows_odo : (countWindows s).odo = s.odo := by unfold countWindows; split <;> simp
@[simp] theorem countWindows_ctrl : (countWindows s).ctrl = s.ctrl := by unfold countWindows; split <;> simp
@[simp] theorem countWindows_conv : (countWindows s).conv = s.conv := by unfold countWindows; split <;> simp
@[simp] theorem countWindows_seq : (countWindows s).seq = s.seq := by unfold countWindows; split <;> simp
@[simp] theorem countWindows_groupB : (countWindows s).line.groupB = s.line.groupB := by unfold countWindows; split <;> simp

/-- The start of a report changes neither the accumulator nor how many records there are, and no record's being SWEEPING. -/
theorem startReport_store : (startReport s).store.gapCount = s.store.gapCount
    ∧ (startReport s).store.gapReasons = s.store.gapReasons
    ∧ (startReport s).store.records.length = s.store.records.length
    ∧ ((∃ r ∈ (startReport s).store.records, r.state = .sweeping) ↔ ∃ r ∈ s.store.records, r.state = .sweeping) := by
  obtain h' | ⟨r, rest, q, c, x, hr, hs, h', -⟩ := startReport_cases s <;> rw [h']
  · simp
  · simp [hr, hs]

/-- A trigger counted makes no record SWEEPING and leaves a SWEEPING one so. -/
theorem SectionRecord.countTrigger_sweeping (u : Setup) (window : Nat) (r : SectionRecord) :
    (r.countTrigger u window).state = .sweeping ↔ r.state = .sweeping := by
  unfold SectionRecord.countTrigger
  split
  · simp_all
  · rename_i h
    dsimp only
    by_cases g : window ≤ (if r.windowCount < window then r.windowCount + 1 else r.windowCount)
    · rw [if_pos g]; simp [h]
    · rw [if_neg g]
  · simp_all
  · simp_all

/-- Trigger counting changes neither the accumulator nor how many records there are, and no record's being SWEEPING. -/
theorem countWindows_store : (countWindows s).store.gapCount = s.store.gapCount
    ∧ (countWindows s).store.gapReasons = s.store.gapReasons
    ∧ (countWindows s).store.records.length = s.store.records.length
    ∧ ((∃ r ∈ (countWindows s).store.records, r.state = .sweeping) ↔ ∃ r ∈ s.store.records, r.state = .sweeping) := by
  unfold countWindows
  split
  · rename_i window _
    obtain ⟨a, b, c, d⟩ := startReport_store
      (s.onStore fun st => { st with records := st.records.map (SectionRecord.countTrigger s.ctrl.setup window) })
    refine ⟨a, b, by simpa using c, d.trans ?_⟩
    simp only [State.onStore_store, List.mem_map, exists_exists_and_eq_and, SectionRecord.countTrigger_sweeping]
  · simp
  · simp

/-! ### Edges -/

/-- Entering a group leaves station control alone. -/
@[simp] theorem enqueue_ctrl (g : TxGroup) (t : Telegram) : (enqueue g t s).ctrl = s.ctrl := by
  obtain ⟨x, hx⟩ := enqueue_eq s g t; rw [hx]; simp

/-- A telegram that enters group B stands at its end. -/
theorem enqueue_groupB (t : Telegram) : (enqueue .b t s).line.groupB = s.line.groupB ++ [t] := by
  obtain ⟨x, hx⟩ := enqueue_eq s .b t; rw [hx]; simp [Line.setGroup]

/-- With room in group B, an EDGE enters it. -/
theorem sendEdge_room (nb : Nat) (e : EdgeBody) (h : s.line.groupB.length < 8) :
    sendEdge nb e s = enqueue .b ⟨nb, .edge e⟩ s := by
  unfold sendEdge; rw [if_pos]; simp [State.hasRoom, TxGroup.capacity, Config.groupBCapacity, h]

/-- With room in group B, the GAP EDGEs of a section skipped in RUN enter it, left before right; outside RUN there are none. -/
theorem sendGapEdges_eq (n : Nat) (h : s.line.groupB.length + (gapEdges s.ctrl.setup n).length ≤ 8) : sendGapEdges n s =
    (if s.ctrl.station = .run then gapEdges s.ctrl.setup n else []).foldl (fun x e => enqueue .b e x) s := by
  unfold sendGapEdges
  dsimp only
  by_cases hr : s.ctrl.station = .run
  · rw [whileRun_run s _ hr, if_pos hr]
    unfold gapEdges at *
    unfold edgeToSide
    cases hl : s.ctrl.setup.neighbour .left with
    | none =>
      rw [whileRun_run s _ hr]
      cases hrr : s.ctrl.setup.neighbour .right with
      | none => simp
      | some b => simp [hl, hrr] at h; simp; rw [sendEdge_room _ _ _ (by omega)]
    | some a =>
      simp [hl] at h
      simp only []
      rw [sendEdge_room _ _ _ (by omega), whileRun_run _ _ (by rw [enqueue_ctrl]; exact hr), enqueue_ctrl]
      cases hrr : s.ctrl.setup.neighbour .right with
      | none => simp
      | some b =>
        simp only [hrr] at h; simp at h; simp
        rw [sendEdge_room _ _ _ (by rw [enqueue_groupB]; simp; omega)]
  · rw [if_neg hr, whileRun_other s _ hr, whileRun_other s _ hr]; rfl

/-! ### The parts of a report -/

/-- With the receiver not idle and room in group C, so many parts of the SENDING record enter it, in order. -/
theorem enterParts_run (r : SectionRecord) (rest : List SectionRecord) (hs : r.state = .sending) :
    ∀ (n q : Nat) (s : State), s.store.records = { r with partsQueued := q } :: rest → s.line.rx ≠ .idle →
      q + n ≤ r.partCount → s.line.groupC.length + n ≤ 8 →
      enterParts n s = { s with
        store := { s.store with records := { r with partsQueued := q + n } :: rest }
        line := { s.line with
          groupC := s.line.groupC ++ (List.range n).map fun i => ⟨Config.everyStation, .report (r.part (q + i))⟩ } } := by
  intro n
  induction n with
  | zero => intro q s h1 h3 h4 h5; simp [enterParts]; rw [← h1]
  | succ n ih =>
    intro q s h1 h3 h4 h5
    rw [enterParts]
    have : enterPart s = { s with
        store := { s.store with records := { r with partsQueued := q + 1 } :: rest }
        line := { s.line with groupC := s.line.groupC ++ [⟨Config.everyStation, .report (r.part q)⟩] } } := by
      unfold enterPart; simp only [h1]
      rw [if_pos]
      · rw [enqueue_busy _ _ _ (by exact h3)]; rfl
      · have : q < r.partCount := by omega
        have h6 : s.line.groupC.length < 8 := by omega
        simp [hs, State.hasRoom, TxGroup.capacity, Config.groupCCapacity, h6]
        exact this
    rw [this]
    refine (ih (q + 1) _ (by rfl) (by exact h3) (by omega) (by simp; omega)).trans ?_
    simp [List.range_succ_eq_map, Nat.add_comm, Nat.add_left_comm]

/-! ### The watch unit -/

/-- A record whose count was increased waits in the table, or takes an id and has its RAISE produced. -/
theorem confirmOrWait_cases (current : Nat) (r : LocalRecord) :
    confirmOrWait current r s = putLocal r s ∨ ∃ (id : Nat) (c : Bool), s.watch.freeId = some id ∧ confirmOrWait current r s =
      produceA (({ r with state := .raised, id := some id, corroborated := c } : LocalRecord).alert id false current)
        ((putLocal { r with state := .raised, id := some id, corroborated := c } s).onWatch
          fun w => { w with idCounter := (id + 1) % 256 }) := by
  unfold confirmOrWait
  dsimp only
  by_cases hc : (if s.watch.corroborates r.first r.last = true then 1 else s.ctrl.setup.watchItem.confirm) ≤ r.confirm
  · rw [if_pos hc]
    split
    · exact .inl rfl
    · rename_i id hid
      exact .inr ⟨id, _, hid, rfl⟩
  · rw [if_neg hc]; exact .inl rfl

/-- A record that has left the table: nothing, its RAISE withdrawn and TX_DROPPED recorded, or its END produced. -/
theorem endRecord_cases (current : Nat) (r : LocalRecord) :
    (r.id = none ∧ endRecord current r s = s)
    ∨ (∃ id, r.id = some id ∧ r.owed = true ∧ endRecord current r s =
        record .txDropped (s.onWatch fun w => { w with owed := w.owed.filter fun t => !t.isRaiseOf id }))
    ∨ ∃ id, r.id = some id ∧ r.owed = false ∧ endRecord current r s = produceA (r.alert id true current) s := by
  unfold endRecord
  cases hid : r.id with
  | none => exact .inl ⟨rfl, rfl⟩
  | some id =>
    cases ho : r.owed
    · exact .inr (.inr ⟨id, rfl, rfl, by simp⟩)
    · exact .inr (.inl ⟨id, rfl, rfl, by simp⟩)

/-! ### Counted steps -/

/-- Above the lower limit a backward step lowers P by one. -/
theorem stepBackward_eq (h : -2147483648 < s.odo.pos) : stepBackward s = s.onOdo fun o => { o with pos := o.pos - 1 } := by
  unfold stepBackward; rw [if_neg]; unfold Config.posMin; omega

/-- At the lower limit a backward step is recorded. -/
theorem stepBackward_limit (h : s.odo.pos = -2147483648) : stepBackward s = record .odometer s := by
  unfold stepBackward; rw [if_pos]; rw [h]; exact le_refl _

/-- Below the upper limit a forward step that crosses no threshold raises P by one. -/
theorem stepForward_eq (h : s.odo.pos < 2147483647)
    (hn : ¬ ((s.ctrl.station = .run ∨ s.ctrl.station = .halted) ∧ s.odo.nextThreshold = some (s.odo.pos + 1))) :
    stepForward s = s.onOdo fun o => { o with pos := o.pos + 1 } := by
  unfold stepForward; rw [if_neg]
  · dsimp only; rw [if_neg]; simpa using hn
  · unfold Config.posMax; omega

/-- Below the upper limit a forward step onto T_next, in RUN or HALTED, crosses it. -/
theorem stepForward_crosses (h : s.odo.pos < 2147483647) (hr : s.ctrl.station = .run ∨ s.ctrl.station = .halted)
    (hn : s.odo.nextThreshold = some (s.odo.pos + 1)) :
    stepForward s = thresholdCrossed (s.onOdo fun o => { o with pos := o.pos + 1 }) := by
  unfold stepForward; rw [if_neg]
  · dsimp only; rw [if_pos ⟨by simpa using hr, by simpa using hn⟩]
  · unfold Config.posMax; omega

/-- At the upper limit a forward step is recorded. -/
theorem stepForward_limit (h : s.odo.pos = 2147483647) : stepForward s = record .odometer s := by
  unfold stepForward; rw [if_pos]; rw [h]; exact le_refl _

/-! ### The stored setup -/

/-- An item number that has a length names an item. -/
theorem itemLength_isSome {n : Nat} (h : (itemLength n).isSome = true) : 1 ≤ n ∧ n ≤ 32 := by
  unfold itemLength at h
  split at h
  · cases h
  · omega

/-- A byte of a payload is at most 255. -/
theorem byteAt_le (p : List Byte) (i : Nat) : byteAt p i ≤ 255 := by
  unfold byteAt; have := (p.getD i 0).isLt; omega

/-- A two-byte field is at most 65535. -/
theorem word16At_le (p : List Byte) (i : Nat) : word16At p i ≤ 65535 := by
  unfold word16At; have := byteAt_le p i; have := byteAt_le p (i + 1); omega

end Sys2Proof.Machine
end

