-- ==== Sys2Proof/Laws/Line.lean ====
section
/-! SUPPORT. What the coding of the line gives: bits read back as they were coded, wired bits, contention, and stretches. -/

namespace Sys2Proof.Machine

/-- A bit coded alone is read as it is, and has its transition. -/
@[simp] theorem bit_codeBit (b : Bool) : (codeBit b).bit = b := by cases b <;> rfl
@[simp] theorem hasTransition_codeBit (b : Bool) : (codeBit b).hasTransition = true := by cases b <;> rfl

/-- A station alone on the line is read as it drives. -/
@[simp] theorem readBits_codeBit (bits : List Bool) : readBits (bits.map codeBit) = bits := by
  induction bits with
  | nil => rfl
  | cons b rest ih => simpa [readBits] using ih

/-- The line is dominant exactly where some driver is. -/
theorem wired_dominant {drivers : List Level} : wired drivers = .dominant ↔ .dominant ∈ drivers := by
  unfold wired; split <;> simp_all

/-- Several bits wired together read 1 exactly where every one of them is 1. -/
theorem bit_wiredBit (bits : List Bool) : (wiredBit (bits.map codeBit)).bit = bits.all id := by
  have h : wired ((bits.map codeBit).map (·.second)) = .dominant ↔ false ∈ bits := by
    rw [wired_dominant]; simp only [List.map_map, List.mem_map, Function.comp]
    constructor
    · rintro ⟨b, hb, e⟩; cases b
      · exact hb
      · exact absurd e (by decide)
    · exact fun hb => ⟨false, hb, rfl⟩
  unfold wiredBit BitTime.bit
  by_cases hb : false ∈ bits
  · simp only [h.2 hb]; symm
    simpa using hb
  · have e : wired ((bits.map codeBit).map (·.second)) ≠ .dominant := fun e => hb (h.1 e)
    cases w : wired ((bits.map codeBit).map (·.second))
    · simpa [w] using (fun b hm => by cases b <;> simp_all : ∀ b ∈ bits, b = true)
    · exact absurd w e

/-- Two different bits driven together make the line dominant in both halves, with no transition, and read 0. -/
theorem wiredBit_differing (b : Bool) : wiredBit [codeBit b, codeBit !b] = .broken ∧ BitTime.broken.bit = false
    ∧ BitTime.broken.hasTransition = false := by cases b <;> decide

/-- Two coded bits hold no level through three halves: there is a transition where they meet, or at the middle of the second. -/
theorem codeBit_stretch (a b : Bool) :
    isTransition (codeBit a).second (codeBit b).first = true ∨ (codeBit b).hasTransition = true := .inr (by simp)

/-- One sequence of bits is not above another: at the first bit in which they differ it has the 0. -/
def lowestOf : List Bool → List Bool → Prop
  | [], _ => True
  | _ :: _, [] => True
  | a :: as, b :: bs => (a = false ∧ b = true) ∨ (a = b ∧ lowestOf as bs)

/-- The contender with the lowest bits never reads a mismatch: the line carries its bits (R162). -/
theorem contend_lowest (n : Nat) (c : List Bool) (cs : List (List Bool)) (hc : c ∈ cs) (hn : c.length = n)
    (hl : ∀ d ∈ cs, d.length = n ∧ lowestOf c d) : contend n cs = c := by
  induction n generalizing c cs with
  | zero => simp [contend, List.length_eq_zero_iff.1 hn]
  | succ n ih =>
    obtain ⟨a, as, rfl⟩ : ∃ a as, c = a :: as := by
      cases c with
      | nil => exact absurd hn (by simp)
      | cons a as => exact ⟨a, as, rfl⟩
    have hall : ∀ d ∈ cs, ∃ b bs, d = b :: bs := fun d hd => by
      cases d with
      | nil => exact absurd (hl _ hd).1 (by simp)
      | cons b bs => exact ⟨b, bs, rfl⟩
    have hbit : contendedBit cs = a := by
      have e : (cs.map fun c => (c.head?.map codeBit).getD .released) = (cs.map fun c => c.headD true).map codeBit := by
        rw [List.map_map]; refine List.map_congr_left fun d hd => ?_
        obtain ⟨b, bs, rfl⟩ := hall d hd; rfl
      unfold contendedBit; rw [e, bit_wiredBit]
      cases a with
      | false =>
        rw [List.all_eq_false]; exact ⟨false, List.mem_map.2 ⟨_, hc, rfl⟩, by simp⟩
      | true =>
        rw [List.all_eq_true]; intro b hb
        obtain ⟨d, hd, rfl⟩ := List.mem_map.1 hb
        obtain ⟨x, bs, rfl⟩ := hall d hd
        have := (hl _ hd).2
        simp only [lowestOf] at this
        simpa using this.elim (fun h => absurd h.1 (by simp)) (fun h => h.1.symm)
    unfold contend; simp only [hbit]; congr 1
    refine ih as _ (List.mem_map.2 ⟨a :: as, List.mem_filter.2 ⟨hc, by simp⟩, rfl⟩) (by simpa using hn) ?_
    intro d hd
    obtain ⟨e, he, rfl⟩ := List.mem_map.1 hd
    obtain ⟨hm, hh⟩ := List.mem_filter.1 he
    have := hl _ hm
    obtain ⟨b, bs, rfl⟩ := hall e hm
    have hb : b = a := by simpa using hh
    subst hb
    refine ⟨by simpa using this.1, ?_⟩
    simpa [lowestOf] using this.2

end Sys2Proof.Machine
end

