-- ==== Sys2Proof/Laws/Watch.lean ====
section
/-! SUPPORT. What the watch unit's operations on lists can do: insertion in order, the growth of a group, and the search for a free id. -/

namespace Sys2Proof.Machine

/-! ### Insertion -/

/-- A record joins the table, and nothing else changes. -/
theorem insertLocal_perm (r : LocalRecord) (rs : List LocalRecord) : (insertLocal r rs).Perm (r :: rs) := by
  induction rs with
  | nil => exact .rfl
  | cons x rest ih =>
    unfold insertLocal; split
    · exact .rfl
    · exact (ih.cons x).trans (.swap r x rest)

/-- The order of ENDs holds each record once. -/
theorem insertById_perm (r : LocalRecord) (rs : List LocalRecord) : (insertById r rs).Perm (r :: rs) := by
  induction rs with
  | nil => exact .rfl
  | cons x rest ih =>
    unfold insertById; split
    · exact .rfl
    · exact (ih.cons x).trans (.swap r x rest)

/-- A record put into a table with spans apart, apart from all of them, leaves it so. -/
theorem insertLocal_apart (r : LocalRecord) (rs : List LocalRecord) (hr : r.first ≤ r.last) (hs : ∀ x ∈ rs, x.first ≤ x.last)
    (h : rs.Pairwise fun x y => x.last + 3 ≤ y.first) (hx : ∀ x ∈ rs, r.last + 3 ≤ x.first ∨ x.last + 3 ≤ r.first) :
    (insertLocal r rs).Pairwise fun x y => x.last + 3 ≤ y.first := by
  induction rs with
  | nil => exact List.pairwise_singleton _ r
  | cons x rest ih =>
    obtain ⟨h1, h2⟩ := List.pairwise_cons.1 h
    have hxl := hs x (by simp)
    have hxr := hx x (by simp)
    unfold insertLocal; split
    · refine List.pairwise_cons.2 ⟨fun y hy => ?_, h⟩
      rcases List.mem_cons.1 hy with rfl | hy
      · omega
      · have := h1 y hy; omega
    · refine List.pairwise_cons.2 ⟨fun y hy => ?_, ih (fun y hy => hs y (by simp [hy])) h2 fun y hy => hx y (by simp [hy])⟩
      rcases List.mem_cons.1 ((insertLocal_perm r rest).mem_iff.1 hy) with rfl | hy
      · omega
      · exact h1 y hy

/-! ### Groups (R137) -/

/-- Two ranges are near exactly when neither lies 3 or more above the other. -/
theorem near_eq_false {a b c d : Nat} : near a b c d = false ↔ b + 2 < c ∨ d + 2 < a := by
  simp only [near, Bool.and_eq_false_iff, decide_eq_false_iff_not]; omega

/-- A filter and its complement hold a list once between them. -/
theorem partition_perm {α : Type} (p : α → Bool) (l : List α) : ((l.partition p).1 ++ (l.partition p).2).Perm l := by
  rw [List.partition_eq_filter_filter]; exact List.filter_append_perm p l

/-- A group that grows loses and doubles nothing. -/
theorem growGroup_perm (n : Nat) (g : SpanGroup) (ls : List LocalRecord) (sps : List Span) :
    ((growGroup n g ls sps).1.locals ++ (growGroup n g ls sps).2.1).Perm (g.locals ++ ls)
      ∧ ((growGroup n g ls sps).1.spans ++ (growGroup n g ls sps).2.2).Perm (g.spans ++ sps) := by
  induction n generalizing g ls sps with
  | zero => exact ⟨.rfl, .rfl⟩
  | succ n ih =>
    unfold growGroup; dsimp only; split
    · exact ⟨.rfl, .rfl⟩
    · refine ⟨(ih _ _ _).1.trans ?_, (ih _ _ _).2.trans ?_⟩
      · rw [SpanGroup.join, List.append_assoc]; exact (partition_perm _ ls).append_left _
      · rw [SpanGroup.join, List.append_assoc]; exact (partition_perm _ sps).append_left _

/-- Grown for as many rounds as there are records and spans, a group is near nothing that is left over. -/
theorem growGroup_closed (n : Nat) (g : SpanGroup) (ls : List LocalRecord) (sps : List Span) (hn : ls.length + sps.length ≤ n) :
    let r := growGroup n g ls sps
    (∀ x ∈ r.2.1, near r.1.first r.1.last x.first x.last = false) ∧ ∀ p ∈ r.2.2, near r.1.first r.1.last p.first p.last = false := by
  induction n generalizing g ls sps with
  | zero =>
    obtain rfl : ls = [] := List.length_eq_zero_iff.1 (by omega)
    obtain rfl : sps = [] := List.length_eq_zero_iff.1 (by omega)
    exact ⟨fun _ h => absurd h List.not_mem_nil, fun _ h => absurd h List.not_mem_nil⟩
  | succ n ih =>
    unfold growGroup; dsimp only; split
    next h =>
      simp only [List.partition_eq_filter_filter, Bool.and_eq_true, List.isEmpty_iff, List.filter_eq_nil_iff, Bool.not_eq_true] at h
      exact h
    next h =>
      refine ih _ _ _ ?_
      have h1 := (partition_perm (fun (r : LocalRecord) => near g.first g.last r.first r.last) ls).length_eq
      have h2 := (partition_perm (fun (p : Span) => near g.first g.last p.first p.last) sps).length_eq
      have h3 : 1 ≤ (ls.partition fun (r : LocalRecord) => near g.first g.last r.first r.last).1.length
          + (sps.partition fun (p : Span) => near g.first g.last p.first p.last).1.length := by
        by_contra hc
        simp only [Nat.not_le, Nat.lt_one_iff, Nat.add_eq_zero_iff, List.length_eq_zero_iff] at hc
        exact h (by rw [hc.1, hc.2]; rfl)
      rw [List.length_append] at h1 h2; omega

/-! ### Ids (R140) -/

/-- An id that is free is carried by no live record. -/
theorem Watch.freeId_free {w : Watch} {id : Nat} (h : w.freeId = some id) : id < 256 ∧ ∀ r ∈ w.locals, r.id ≠ some id := by
  have hp := List.find?_some h
  obtain ⟨i, -, rfl⟩ := List.mem_map.1 (List.mem_of_find?_eq_some h)
  exact ⟨Nat.mod_lt _ (by decide), by simpa using hp⟩

end Sys2Proof.Machine
end

