-- ==== Sys2Proof/WellFormed.lean ====
section
/-! DEFINITION. Which commands the outside can send: the ranges of those operands whose type is wider than the spec's range. -/

namespace Sys2Proof

/-- A well-formed command. A payload holds at most 255 bytes (R155); a stretch of line level lasts at least one bit time (R157);
a section number is at most 16,777,215 (00_scope.md, Identifiers). A header is as its bits were received, so any bits are well formed. -/
def Instr.wellFormed : Instr → Bool
  | .checkSequenceEnd payload _ => payload.length ≤ 255
  | .quietSpell _ bits => 1 ≤ bits
  | .windowTimerExpiry number => number ≤ Config.lastSection
  | .powerOrPinReset _ _ | .headerEnd _ | .phaseTransition _ | .localStop | .breakSendEnd | .breakDetected | .lineIdle
  | .contentionLost | .readbackMismatch | .readbackTransition | .transmissionCompletion
  | .setup | .start | .restart | .edge | .alertRaise | .alertEnd | .statusReq | .clear | .drain
  | .settleExpiry | .cantCompletion _ | .supplyCompletion _ | .tempCompletion _ | .scanIntervalExpiry
  | .dwellExpiry | .gapExpiry | .echoRecord _ | .firstTransition | .resetAsserted => true

end Sys2Proof
end

