-- ==== Sys2Proof/Tests/Slice0.lean ====
section
/-! SUPPORT. The tests: ill-formed commands refused, small one-step tests with values from the spec's worked examples, and for every
statement with hypotheses a witness that meets them. -/

namespace Sys2Proof.Tests

set_option Elab.async false

open Sys2Proof Sys2Proof.Machine

/-! ### WellFormed: one ill-formed term for each check -/

theorem test_wellFormed_payload_too_long : (Instr.checkSequenceEnd (List.replicate 256 0) 0).wellFormed = false := by decide +kernel
theorem test_wellFormed_payload_longest : (Instr.checkSequenceEnd (List.replicate 255 0) 0).wellFormed = true := by decide +kernel
theorem test_wellFormed_spell_empty : (Instr.quietSpell true 0).wellFormed = false := by decide
theorem test_wellFormed_spell_shortest : (Instr.quietSpell true 1).wellFormed = true := by decide
theorem test_wellFormed_number_too_high : (Instr.windowTimerExpiry 16777216).wellFormed = false := by decide
theorem test_wellFormed_number_highest : (Instr.windowTimerExpiry 16777215).wellFormed = true := by decide

/-! ### Helpers: the station of the worked examples, and small states built on it -/

/-- The state after a command. -/
def after (c : Instr) (s : State) : State :=
  match exec c s with
  | .next t => t
  | .refused _ => s

/-- Items 1, 2, 11, 12 and 30 of the worked examples. -/
def survey : Survey := { spacing := 40, countMode := .x4, tofMin := 500, ks := 383600, dMin := 6000, dMax := 60000 }
def head : Head := { mount := 8192, hx := 1200, hy := 1500, gx := 0, gy := -17500 }
def sweep : SweepItem :=
  { dwellShort := 8, dwellLong := 24, gap := 2, pairing := true, forwardSuspect := true, ampLo := 40, weakLimit := 3 }
def zones : Zones :=
  { left := some 2, leftZone := ⟨300, 315⟩, right := some 4, rightZone := ⟨500, 531⟩, coverage := ⟨440, 620⟩,
    basis := .sections, window := 2 }
def aux : Aux :=
  { cantZero := 2048, cantGain := 640, cantLim := 2000, supLo := 2600, supHyst := 100, tempHi := 3400, tempHyst := 150,
    cantSettle := 20, supSettle := 12, tempSettle := 8, scanPeriod := 5 }

/-- The setup of the worked examples: station 3 between stations 2 and 4. -/
def setup : Setup :=
  { Setup.empty with
    survey := some survey, head := some head, sweep := some sweep, zones := some zones, aux := some aux
    calib := Vector.replicate 8 (some (Vector.replicate 8 { angle := 0, offset := 45, enabled := true, cls := .short }))
    line := some { timeout := 48, orderCode := 0 } }

/-- Every kind FATAL and unmasked. -/
def allFatal : Setup := { setup with faults := some (Vector.replicate 16 ⟨.fatal, false⟩) }

/-- A state with a setup, in a station state. -/
def at_ (st : Station) (u : Setup) : State :=
  { State.reset with ctrl := { State.reset.ctrl with station := st, ownNumber := 3, setup := u } }

/-- The station in RUN at P = 1039 before the crossing of section 1 (01, section 1.4). -/
def running : State :=
  { at_ .run setup with
    odo := { phase := ⟨false, true⟩, pos := 1039, base := some 1000, nextThreshold := some 1040, nextSection := 1, limitMark := false } }

/-- A received telegram at the front of the queue. -/
def with_ (k : Kind) (sender : Nat) (p : List Byte) (s : State) : State :=
  { s with line := { s.line with queue := [⟨sender, 31, k, p⟩] } }

/-- A record of a section in a state. -/
def rec_ (number : Nat) (st : RecordState) : SectionRecord := { openedRecord setup number 0 .empty with state := st }

/-- A state with records and a sweep state. -/
def holding (rs : List SectionRecord) (sweep : SweepState) (s : State) : State :=
  { s with store := { s.store with records := rs }, seq := { s.seq with sweep := sweep } }

/-- A converter at work. -/
def converting (ch : Channel) (scan : ScanState) (s : State) : State :=
  { s with conv := { s.conv with work := some ⟨ch, .converting⟩, scan := scan } }

/-! ### Values of the worked examples -/

/-- 01, section 1.4: the crossing at 1040 starts section 1 with gap-before 0. -/
theorem test_crossing_starts_section : (after (.phaseTransition ⟨false, false⟩) running).store.records.map (fun r => (r.number, r.summary.gapBefore))
    = [(1, 0)] ∧ (after (.phaseTransition ⟨false, false⟩) running).odo.nextThreshold = some 1080 := by decide +kernel

/-- 01, section 1.4: under OVER_TEMP the crossing is skipped as HOT, and both neighbours get a GAP EDGE. -/
theorem test_hot_crossing_skipped :
    let t := after (.phaseTransition ⟨false, false⟩) { running with conv := { running.conv with overTemp := true } }
    t.store.gapCount = 1 ∧ t.store.gapReasons.hot = true ∧ t.line.groupB.map (·.target) = [2, 4] := by decide +kernel

/-- 02, section 2.6: codes 2300, 2310 and 2312 give the cants 630, 655 and 660. -/
theorem test_cant_codes : [2300, 2310, 2312].map (fun c => (setup.aux.map fun a => limitCant a (rawCant a c))) =
    [some 630, some 655, some 660] := by decide +kernel

/-- 02, section 2.6: SUPPLY code 2590 enters SUPPLY_WEAK, 2640 does not. -/
theorem test_supply_codes :
    (after (.supplyCompletion 2590) (converting .supply .periodic running)).conv.supplyWeak = true
    ∧ (after (.supplyCompletion 2640) (converting .supply .periodic running)).conv.supplyWeak = false := by decide +kernel

/-- 02, section 2.6: TEMP code 3120 leaves OVER_TEMP clear and completes the scan. -/
theorem test_temp_completes_scan :
    let t := after (.tempCompletion 3120) (converting .temp .periodic running)
    t.conv.overTemp = false ∧ t.conv.scan = .idle ∧ t.conv.intervalRunning = true := by decide +kernel

/-- 03, R34: with cant 630 the beam angle 24322 lies in the window 24000..26000, with cant −3 it does not. -/
theorem test_exclusion_window :
    (⟨24000, 26000⟩ : Exclusion).contains (reduceAngle (15500 + 8192 + 630)) = true
    ∧ (⟨24000, 26000⟩ : Exclusion).contains (reduceAngle (15500 + 8192 + (-3))) = false := by decide +kernel

/-- 03, R36: elements 3 and 40 not fired leave 32 groups, in the order of the example. -/
theorem test_groups_of_example :
    let t : Vector Element 64 := Vector.ofFn fun e => ⟨0, 0, e.val ≠ 3 && e.val ≠ 40, .short, 0⟩
    let gs := (setup.sweep.map fun w => buildGroups w false t (·.enabled)).getD []
    gs.length = 32 ∧ (gs.take 9).map FiringGroup.members
      = [[0, 32], [1, 33], [2, 34], [4, 36], [5, 37], [6, 38], [7, 39], [8], [9, 41]]
    ∧ (gs.drop 30).map FiringGroup.members = [[31, 63], [35]] := by decide +kernel

/-- 04, section 4.7: the range, point and radius of element 0's echo. -/
theorem test_point_of_worked_case :
    35075 * cosine 8192 = 812687750 ∧ roundHalfAway 812687750 32768 = 24801 ∧ radiusOf 26001 8801 = 27450
    ∧ rangeOf 383600 (-30) 5000 = 29296 := by decide +kernel

/-- 04, section 4.8: the interpolated sine near the end of the turn is not the mirrored one. -/
theorem test_sine_not_mirrored : sine 65504 = -100 ∧ sine 16384 = 32767 := by decide +kernel

/-- 05: the point (26001, 8801) lies in bin 53. -/
theorem test_bin_of_worked_case : binOf 26001 8801 = some 53 := by decide +kernel

/-- 05, section 5.6: bin 55 after the cable echo and the wall echo. -/
theorem test_bin_record_of_worked_case :
    let c := fun r : Nat => clearance r (some 26500)
    let b := ((BinRecord.fresh 55 70).contribute 500 (c 26100) ⟨1, 0, 0, 26100, 70, .firstOnly, false⟩).contribute 500 (c 27455)
      ⟨33, 0, 0, 27455, 55, .last, false⟩
    (b.nLast, b.rSum, b.cMin, b.qBest, b.warn, b.intrusion) = (1, 27455, some (-400), 55, true, true)
    ∧ roundHalfUp 54899 2 = 27450 := by decide +kernel

/-- 12, R189: the check sequence starts at FFFFH; the bit register of a lone 1 after it is the shift without the polynomial. -/
theorem test_check_step : checkStep 0xFFFF#16 true = 0xFFFE#16 ∧ checkStep 0xFFFF#16 false = 0xEFDF#16 := by decide

/-- R166: LOCAL_STOP in RUN halts the station and drives the break; R166: BREAK_SEND_END ends it. -/
theorem test_local_stop : (after .localStop running).ctrl.station = .halted ∧ (after .localStop running).line.breakSend = true
    ∧ (after .breakSendEnd (after .localStop running)).line.breakSend = false := by decide +kernel

/-- R165: BREAK_DETECTED in RUN halts the station. -/
theorem test_break_detected : (after .breakDetected running).ctrl.station = .halted := by decide +kernel

/-- R156: LINE_IDLE, then FIRST_TRANSITION under the stored LINE_TIMEOUT of 48. -/
theorem test_first_transition : (after .firstTransition (after .lineIdle running)).line.rx = .receiving 48 none := by decide +kernel

/-- R157: 24 dominant bit times are a break and no quiet spell; 48 recessive ones are a quiet spell. -/
theorem test_quiet_spell :
    let s := after .firstTransition (after .lineIdle running)
    (after (.quietSpell true 24) s).line.rx = .receiving 48 none ∧ (after (.quietSpell false 48) s).line.rx = .idleWait
    ∧ (after (.quietSpell false 47) s).line.rx = .receiving 48 none := by decide +kernel

/-- R154: a 0 and a 1 driven in one bit make it dominant in both halves, and it decodes as 0. -/
theorem test_two_drivers : wiredBit [codeBit false, codeBit true] = ⟨.dominant, .dominant⟩
    ∧ (wiredBit [codeBit false, codeBit true]).bit = false := by decide

/-- R154, R162: of the contention fields 20, 19 and 24, each after its start bit, the line carries 19. -/
theorem test_lowest_field_wins : contend 8 ([20#7, 19, 24].map fun v => false :: bitsOf v) = false :: bitsOf 19#7 := by decide +kernel

/-- R154: 11 recessive bit times are idle, half a bit time less is not; 24 dominant ones are a break, half a bit time less is not. -/
theorem test_idle_and_break : [22, 21].map (fun n => isIdle (List.replicate n .recessive ++ [.dominant])) = [true, false]
    ∧ [48, 47].map (fun n => isBreak (List.replicate n .dominant ++ [.recessive])) = [true, false] := by decide +kernel

/-- R154, R155: while it transmits, the station drives the telegram bit by bit; alone on the line it is read back as it is, and the
telegram without payload lasts 41 bit times. -/
theorem test_station_drives : (let l : Line := { running.line with tx := some ⟨.a, ⟨⟨1, 3, 31, 2, 0⟩, [], 0⟩, false⟩ }
    readBits l.drives = (⟨⟨1, 3, 31, 2, 0⟩, [], 0⟩ : Frame).bits ∧ l.drives.length = 41) := by decide +kernel

/-- R178: RESTART in RUN moves the station to CONFIG and keeps P. -/
theorem test_restart : (after .restart (with_ .restart 0 [] running)).ctrl.station = .config
    ∧ (after .restart (with_ .restart 0 [] running)).odo.pos = 1039 := by decide +kernel

/-- R171: SETUP in RUN is refused. -/
theorem test_setup_refused_in_run : (after .setup (with_ .setup 0 [31, 48, 0] running)).recorder.kinds[6].count = 1 := by decide +kernel

/-- R178, R179: reset asserted and ended. -/
theorem test_reset : (after .resetAsserted running).resetAsserted = true
    ∧ (after (.powerOrPinReset 5 ⟨true, false⟩) running).ctrl.ownNumber = 5 := by decide +kernel

/-- The queue: the front command runs, and the rest waits. -/
theorem test_step_takes_front : (match step { running with pending := [.localStop, .lineIdle] } with
    | .next t => (t.ctrl.station, t.pending)
    | _ => (.config, [])) = (.halted, [.lineIdle]) := by decide +kernel


/-! ### Witnesses: for every statement with hypotheses, states and operands that meet them -/

/-- No kind of the default policy but DUP_STATION is FATAL. -/
theorem not_fatal {k : ErrKind} (h : k ≠ .dupStation) : ¬ setup.fatal k := by
  cases k <;> first | exact absurd rfl h | (unfold Setup.fatal; decide +kernel)

/-- A crossing from plain equations. -/
theorem crossing_of {s : State} {pair : Phase} (h : (s.resetAsserted = false ∧ s.ctrl.station.surveys = true
    ∧ (s.odo.phase.a = pair.a ↔ s.odo.phase.b ≠ pair.b) ∧ countedStep s.ctrl.setup.countMode s.odo.phase pair = true)
    ∧ forwardStep s.odo.phase pair = true ∧ s.odo.pos < 2147483647 ∧ s.odo.nextThreshold = some (s.odo.pos + 1)
    ∧ s.ctrl.setup.survey = some survey) : Crossing s pair survey :=
  ⟨h.1.1, h.1.2.1, h.1.2.2.1, h.1.2.2.2, h.2.1, h.2.2.1, h.2.2.2.1, h.2.2.2.2⟩

/-- Before a crossing, with records, heat and a station state. -/
def before (st : Station) (hot : Bool) (rs : List SectionRecord) : State :=
  { running with
    ctrl := { running.ctrl with station := st }
    conv := { running.conv with overTemp := hot }
    store := { running.store with records := rs } }

/-- The lowest threshold at which P can stand before it. -/
def beforeNumber (n : Nat) (mark : Bool) : State :=
  { running with odo := { running.odo with nextSection := n, limitMark := mark } }

theorem test_witness_StepRunsFrontCommand : State.reset.pending = [] := rfl

theorem test_witness_ResetReleasesAndIsSound : (State.reset.resetAsserted = false)
    ∧ (after .resetAsserted running).resetAsserted = true ∧ Instr.localStop ≠ .resetAsserted
    ∧ ∀ straps pair, Instr.localStop ≠ .powerOrPinReset straps pair := by
  refine ⟨rfl, rfl, by decide, fun _ _ => Instr.noConfusion⟩

/-- LOCAL_STOP moves RUN to HALTED; a foreign telegram bearing the own number moves RUN to FAULT. -/
theorem test_witness_StationMovesAsListed :
    exec .localStop running = .next (after .localStop running) ∧ running.ctrl.station ≠ (after .localStop running).ctrl.station
    ∧ (let s : State := { running with line := { running.line with judging := true } }
       exec .readbackTransition s = .next (after .readbackTransition s) ∧ s.ctrl.station ≠ .fault
         ∧ (after .readbackTransition s).ctrl.station = .fault) := by
  refine ⟨rfl, by decide +kernel, rfl, by decide +kernel, by decide +kernel⟩

theorem test_witness_SetupFrozenOutsideConfig : (∀ straps pair, Instr.localStop ≠ .powerOrPinReset straps pair)
    ∧ exec .localStop running = .next (after .localStop running) ∧ running.ctrl.station ≠ .config :=
  ⟨fun _ _ => Instr.noConfusion, rfl, by decide +kernel⟩

/-- At both limits of P, and one short of the upper: the last counted step stays clear of T_next. -/
theorem test_witness_LegalTransitionsCounted :
    [-2147483648, 2147483646, 2147483647].all (fun p =>
      let s : State := { running with odo := { running.odo with pos := p } }
      !s.resetAsserted && decide (s.odo.phase = ⟨false, true⟩) && decide (-2147483648 ≤ s.odo.pos) && decide (s.odo.pos ≤ 2147483647)) = true
    ∧ (2147483646 + 1 : Int) ≤ 2147483647 ∧ running.odo.nextThreshold ≠ some (2147483646 + 1)
    ∧ running.ctrl.setup.countMode = .x4 := by decide +kernel

theorem test_witness_RefusedTransitions :
    running.resetAsserted = false ∧ (⟨false, true⟩ : Phase) = running.odo.phase
    ∧ ((⟨true, false⟩ : Phase).a ≠ running.odo.phase.a ∧ (⟨true, false⟩ : Phase).b ≠ running.odo.phase.b)
    ∧ (let s : State := { running with odo := { running.odo with pos := 2147483647 } }
       let pair : Phase := ⟨false, false⟩
       (pair.a ≠ s.odo.phase.a ↔ pair.b = s.odo.phase.b) ∧ countedStep s.ctrl.setup.countMode s.odo.phase pair = true
         ∧ forwardStep s.odo.phase pair = true ∧ s.odo.pos = 2147483647)
    ∧ (let s : State := { running with odo := { running.odo with pos := -2147483648 } }
       let pair : Phase := ⟨true, true⟩
       (pair.a ≠ s.odo.phase.a ↔ pair.b = s.odo.phase.b) ∧ countedStep s.ctrl.setup.countMode s.odo.phase pair = true
         ∧ forwardStep s.odo.phase pair = false ∧ s.odo.pos = -2147483648) := by decide +kernel

/-- With seven records present, and at the last section number but one. -/
theorem test_witness_CrossingStartsSection :
    (let s := before .run false ((List.range 7).map fun n => rec_ n .held)
     Crossing s ⟨false, false⟩ survey ∧ s.ctrl.station = .run ∧ s.odo.limitMark = false ∧ s.odo.nextSection < 16777215
       ∧ s.conv.overTemp = false ∧ (∀ r ∈ s.store.records, r.state ≠ .sweeping) ∧ s.store.records.length < 8
       ∧ s.ctrl.setup.aux = some aux)
    ∧ Crossing (beforeNumber 16777214 false) ⟨false, false⟩ survey := by
  refine ⟨⟨crossing_of ?_, ?_⟩, crossing_of ?_⟩ <;> decide +kernel

/-- Each of the four tests that skip; one free slot in group B for two GAP EDGEs. -/
theorem test_witness_CrossingSkipsSection :
    (Crossing (before .halted false []) ⟨false, false⟩ survey)
    ∧ (Crossing (before .run true []) ⟨false, false⟩ survey)
    ∧ (let s := before .run false [rec_ 0 .sweeping]
       Crossing s ⟨false, false⟩ survey ∧ s.conv.overTemp = false ∧ ∃ r ∈ s.store.records, r.state = .sweeping)
    ∧ (let s := before .run false ((List.range 8).map fun n => rec_ n .held)
       Crossing s ⟨false, false⟩ survey ∧ s.conv.overTemp = false ∧ (∀ r ∈ s.store.records, r.state ≠ .sweeping)
         ∧ 8 ≤ s.store.records.length)
    ∧ (∀ k ∈ some ErrKind.storeFull, ¬ setup.fatal k) ∧ (∀ k ∈ some ErrKind.sweepBusy, ¬ setup.fatal k)
    ∧ ((gapEdges setup 1).take (8 - 7)).length < (gapEdges setup 1).length ∧ ¬ setup.fatal .txDropped
    ∧ running.odo.limitMark = false ∧ running.odo.nextSection < 16777215 := by
  refine ⟨crossing_of ?_, crossing_of ?_, ⟨crossing_of ?_, ?_⟩, ⟨crossing_of ?_, ?_⟩, ?_, ?_, ?_, not_fatal (by decide), ?_⟩
  case refine_7 => rintro k ⟨⟩; exact not_fatal (by decide)
  case refine_8 => rintro k ⟨⟩; exact not_fatal (by decide)
  all_goals decide +kernel

theorem test_witness_CrossingAtNumberLimit :
    (Crossing (beforeNumber 16777215 true) ⟨false, false⟩ survey ∧ (beforeNumber 16777215 true).odo.limitMark = true)
    ∧ Crossing (beforeNumber 16777215 false) ⟨false, false⟩ survey ∧ (beforeNumber 16777215 false).odo.limitMark = false
      ∧ (beforeNumber 16777215 false).odo.nextSection = 16777215 := by
  refine ⟨⟨crossing_of ?_, ?_⟩, crossing_of ?_, ?_⟩ <;> decide +kernel

/-- A telegram of a kind without payload waits at the front. -/
theorem test_waiting (k : Kind) (s : State) : (with_ k 0 [] s).line.queue = ⟨0, 31, k, []⟩ :: [] := rfl

theorem itemsPass : ∀ item : Nat, 1 ≤ item → item ≤ 32 → itemFails 3 setup item = false := by
  have h : ∀ i : Fin 33, 1 ≤ i.val → itemFails 3 setup i.val = false := by decide +kernel
  exact fun item h1 h2 => h ⟨item, by omega⟩ h1

/-- Cool, and hot with six telegrams in group B. -/
theorem test_witness_StartFromConfig :
    (let s := with_ .start 0 [] (at_ .config setup)
     s.resetAsserted = false ∧ s.ctrl.station = .config ∧ s.ctrl.setup.survey = some survey ∧ s.ctrl.setup.aux = some aux
       ∧ s.store.records = [] ∧ s.conv.overTemp = false)
    ∧ (∀ item : Nat, 1 ≤ item → item ≤ 32 → itemFails (at_ .config setup).ctrl.ownNumber.toNat setup item = false)
    ∧ (let s0 := with_ .start 0 [] (at_ .config setup)
       let s : State := { s0 with
         conv := { s0.conv with overTemp := true }
         line := { s0.line with groupB := List.replicate 6 ⟨2, .drained none⟩ } }
       s.ctrl.station = .config ∧ s.conv.overTemp = true ∧ s.line.groupB.length + (gapEdges s.ctrl.setup 0).length ≤ 8)
    ∧ ∃ item, setup.calib[(7 : Fin 8)] = some item := by
  refine ⟨by decide +kernel, itemsPass, by decide +kernel, _, rfl⟩

/-- The lowest failing item is 1 in an empty setup, and 31 where the group order code is 7. -/
theorem test_witness_StartElsewhere :
    (itemFails 3 Setup.empty 1 = true ∧ ∀ j : Nat, 1 ≤ j → j < 1 → itemFails 3 Setup.empty j = false)
    ∧ (let u : Setup := { setup with line := some ⟨48, 7⟩ }
       itemFails 3 u 31 = true ∧ ∀ j : Fin 31, 1 ≤ j.val → itemFails 3 u j.val = false)
    ∧ [Station.config, .halted, .run].all (fun st =>
        let s := with_ .start 0 [] (at_ st setup)
        !s.resetAsserted && decide (s.ctrl.station = st)) = true := by
  refine ⟨⟨by decide +kernel, fun j h1 h2 => by omega⟩, by decide +kernel, by decide +kernel⟩

/-- A setup that passes, with a zone of 32 bins; and with one of 33 bins, with a segment that shares its last bin with an earlier one, and
with codes 5 and 6 of the group order. -/
theorem test_witness_PassedChecksEnsure : ((∀ item : Nat, 1 ≤ item → item ≤ 32 → itemFails 3 setup item = false)
      ∧ setup.zone .right = some ⟨500, 531⟩)
    ∧ itemFails 3 { setup with zones := some { zones with rightZone := ⟨500, 532⟩ } } 12 = true
    ∧ (let segments : Vector (Option Segment) 12 := (Vector.replicate 12 none).set 2 (some ⟨300, 310, 10000, 10000⟩)
       let u : Setup := { setup with envelope := segments.set 11 (some ⟨310, 320, 10000, 10000⟩) }
       itemFails 3 u 15 = false ∧ itemFails 3 u 24 = true)
    ∧ [5, 6].map (fun n => itemFails 3 { setup with line := some ⟨48, n⟩ } 31) = [false, true] :=
  ⟨⟨itemsPass, rfl⟩, by decide +kernel, by decide +kernel, by decide +kernel⟩

theorem test_witness_ConverterEvents :
    (let s : State := { running with conv := { running.conv with work := some ⟨.cant, .settling 20⟩, intervalRunning := true } }
     s.resetAsserted = false ∧ s.conv.work = some ⟨.cant, .settling 20⟩ ∧ s.ctrl.setup.aux = some aux
       ∧ s.conv.intervalRunning = true)
    ∧ (converting .supply .periodic running).conv.work = some ⟨.supply, .converting⟩
    ∧ (converting .temp .periodic running).conv.work = some ⟨.temp, .converting⟩ := by decide +kernel

theorem test_witness_CantOfCode : aux.inRange
    ∧ (converting .cant .periodic running).conv.work = some ⟨.cant, .converting⟩
    ∧ ¬ ((converting .cant .periodic running).conv.scan = .sectionScan ∧ (converting .cant .periodic running).seq.sweep = .waiting) := by
  refine ⟨by unfold Aux.inRange; decide +kernel, by decide +kernel⟩

/-- The element table of the setup, of which every element is fired. -/
def elements : Vector Element 64 := Vector.replicate 64 ⟨0, 45, true, .short, 0⟩

/-- A section in flight with its sweep in a state. -/
def inFlight (sweep : SweepState) (groups : List FiringGroup) : State :=
  let s := holding [rec_ 0 .sweeping] sweep running
  { s with
    seq := { s.seq with table := some elements, groups := groups, fixed := some ⟨0, false⟩ }
    echo := { acceptance := none, geometry := some ⟨0, 0, 0, List.replicate 64 0⟩ } }

theorem test_witness_CantCompletionStartsSweep :
    (let s := converting .cant .sectionScan (inFlight .waiting [])
     s.resetAsserted = false ∧ s.ctrl.setup.aux = some aux ∧ s.conv.work = some ⟨.cant, .converting⟩ ∧ s.conv.scan = .sectionScan
       ∧ s.seq.sweep = .waiting ∧ s.ctrl.setup.head = some head ∧ s.ctrl.setup.sweep = some sweep ∧ s.seq.table = some elements)
    ∧ ¬ setup.fatal .cantClamp
    ∧ (let groups := buildGroups sweep false elements fun x =>
         x.enabled && !(setup.excludes (((x.angle : Int) + head.mount + 0) % 65536).toNat)
       groups = ⟨0, true, 8⟩ :: groups.tail ∧ groups.length = 32)
    ∧ (let s0 := converting .cant .sectionScan (inFlight .waiting [])
       let disabled : Vector Element 64 := Vector.replicate 64 ⟨0, 45, false, .short, 0⟩
       let s : State := { s0 with seq := { s0.seq with table := some disabled } }
       s.seq.table = some disabled ∧ s.seq.sweep = .waiting ∧ buildGroups sweep false disabled (fun x =>
         x.enabled && !(setup.excludes (((x.angle : Int) + head.mount + 0) % 65536).toNat)) = []) := by
  refine ⟨by decide +kernel, not_fatal (by decide), by decide +kernel, by decide +kernel⟩

/-- With no element to fire the sweep completes at once: fired count 0, and the section goes on to be held or reported. -/
theorem test_sweep_without_groups :
    (let s0 := converting .cant .sectionScan (inFlight .waiting [])
     let t := after (.cantCompletion 2048) { s0 with
       seq := { s0.seq with table := some (Vector.replicate 64 ⟨0, 45, false, .short, 0⟩) } }
     t.seq.sweep = .idle ∧ t.conv.scan = .periodic
       ∧ t.store.records.map (fun r => (r.state, r.summary.sweep.map (·.fired))) = [(.held, some 0)]) := by decide +kernel

/-- A paired group, and with element 33 not fired a group of one. -/
theorem test_witness_GroupsHoldEachFiredElementOnce :
    (⟨0, true, 8⟩ : FiringGroup) ∈ buildGroups sweep false elements (fun _ => true)
    ∧ (⟨31, false, 8⟩ : FiringGroup) ∈ buildGroups sweep true elements (fun _ => true)
    ∧ (buildGroups sweep true elements (fun _ => true)).length = 64 := by decide +kernel

theorem test_witness_DwellExpiryClosesGroup :
    (inFlight (.dwell 0) [⟨0, true, 8⟩]).resetAsserted = false ∧ (inFlight (.dwell 0) [⟨0, true, 8⟩]).seq.sweep = .dwell 0
    ∧ (let s0 := inFlight (.dwell 0) [⟨0, true, 8⟩]
       let s : State := { s0 with seq := { s0.seq with fixed := some ⟨0, true⟩ } }
       s.seq.fixed = some ⟨0, true⟩ ∧ s.seq.sweep = .dwell 0 ∧ s.store.records[0]? = some (rec_ 0 .sweeping)) := by decide +kernel

/-- A member's echo. -/
def echo (element : Fin 64) (tof : BitVec 20) : EchoRecord := ⟨element, tof, 70, false, true⟩

/-- Element 63 fires along the x axis and its echo is valid, in bin 0; and of a pair group, element 31 holds two valid echoes under a
foreign mark and element 63 a NEAR one. -/
theorem test_witness_ValidEchoReachesItsBin :
    (let s0 := inFlight (.dwell 0) [⟨63, false, 8⟩]
     let s : State := { s0 with echo := { s0.echo with acceptance := some [⟨63, [echo 63 5000], false⟩] } }
     s.resetAsserted = false ∧ s.seq.sweep = .dwell 0 ∧ s.ctrl.setup.survey = some survey ∧ s.ctrl.setup.sweep = some sweep
       ∧ s.seq.table = some elements ∧ s.seq.fixed = some ⟨0, false⟩ ∧ s.echo.geometry = some ⟨0, 0, 0, List.replicate 64 0⟩
       ∧ s.echo.acceptance = some [⟨(echo 63 5000).element.val, [echo 63 5000], false⟩])
    ∧ (∃ (x y : Int) (r bin : Nat),
        disposalOf survey ⟨0, 0, 0, List.replicate 64 0⟩ elements[(echo 63 5000).element].offset (echo 63 5000) = .valid x y r
          ∧ binOf x y = some bin)
    ∧ (let held := [echo 31 5000, echo 31 6000]
       let members : List (Fin 64 × List EchoRecord × Bool) := [(31, held, true), (63, [echo 63 499], false)]
       let s0 := inFlight (.dwell 0) [⟨31, true, 8⟩]
       let s : State := { s0 with echo := { s0.echo with acceptance := some [⟨31, held, true⟩, ⟨63, [echo 63 499], false⟩] } }
       s.echo.acceptance = some (members.map fun m => ⟨m.1.val, m.2.1, m.2.2⟩) ∧ (∀ m ∈ members, m.2.1.length ≤ 2)
         ∧ s.seq.fixed = some ⟨0, false⟩ ∧ (⟨31, true, 8⟩ : FiringGroup).members = [31, 63]
         ∧ (held.all fun e => match disposalOf survey ⟨0, 0, 0, List.replicate 64 0⟩ 45 e with
             | .valid _ _ _ => true
             | .near | .far => false)
         ∧ disposalOf survey ⟨0, 0, 0, List.replicate 64 0⟩ 45 (echo 63 499) = .near) := by
  refine ⟨by decide +kernel, ⟨29220, 0, 29220, 0, by decide +kernel, by decide +kernel⟩, by decide +kernel⟩

theorem test_witness_GapExpiryGoesOn :
    (let s := inFlight (.gap 0) [⟨0, true, 8⟩, ⟨1, true, 8⟩]
     s.resetAsserted = false ∧ s.seq.sweep = .gap 0 ∧ s.seq.groups[0 + 1]? = some ⟨1, true, 8⟩)
    ∧ (let s := inFlight (.gap 0) [⟨0, true, 8⟩]
       s.seq.sweep = .gap 0 ∧ s.seq.groups.length ≤ 0 + 1) := by decide +kernel

/-- The gap after the last group of a section alone in the store is about to end. -/
def completing (u : Setup) (r : SectionRecord) : State :=
  let s := inFlight (.gap 0) [⟨0, true, 8⟩]
  { s with ctrl := { s.ctrl with setup := u }, store := { s.store with records := [r] } }

theorem completing_of (u : Setup) {r : SectionRecord} (h : r.state = .sweeping) : Completing (completing u r) 0 r :=
  ⟨rfl, rfl, Nat.le_refl 1, rfl, rfl, h, Receiver.noConfusion⟩

/-- Without neighbours; and with both, a bin in each zone, an edge held, and one free slot in group B for two EDGEs. -/
theorem test_witness_SweepCompletionReports :
    (let r : SectionRecord := { rec_ 0 .sweeping with bins := [BinRecord.fresh 300 70, BinRecord.fresh 531 70], leftEdge := some ⟨true, []⟩ }
     Completing (completing setup r) 0 r ∧ setup.zones = some zones ∧ (∀ b ∈ r.bins, b.intrusion = false) ∧ r.bins.length ≤ 128
       ∧ zones.basis = .sections ∧ ¬ zones.window ≤ r.windowCount ∧ ¬ setup.fatal .txDropped
       ∧ ((gapEdges setup 0).take (8 - 7)).length < 2) ∧
    (let alone : Zones := { zones with left := none, right := none }
     let s0 := inFlight (.gap 0) [⟨0, true, 8⟩]
     let r : SectionRecord := { rec_ 0 .sweeping with leftSide := .none, rightSide := .none,
                                                      bins := (List.range 128).map fun b => BinRecord.fresh b 70 }
     let s : State := { s0 with
       ctrl := { s0.ctrl with setup := { setup with zones := some alone } }
       store := { s0.store with records := [r] } }
     s.resetAsserted = false ∧ s.seq.sweep = .gap 0 ∧ s.seq.groups.length ≤ 0 + 1 ∧ s.ctrl.station = .run
       ∧ s.ctrl.setup.zones = some alone ∧ alone.left = none ∧ alone.right = none ∧ s.store.records = [r] ∧ r.state = .sweeping
       ∧ r.leftSide = .none ∧ r.rightSide = .none ∧ r.leftEdge = none ∧ r.rightEdge = none
       ∧ (∀ b ∈ r.bins, b.intrusion = false) ∧ r.bins.length ≤ 128 ∧ s.watch.locals = [] ∧ s.line.groupC = [] ∧ s.line.rx ≠ .idle) := by
  refine ⟨⟨completing_of _ rfl, by decide +kernel, by decide +kernel, by decide +kernel, by decide +kernel, by decide +kernel,
    not_fatal (by decide), by decide +kernel⟩, by decide +kernel⟩

theorem test_witness_DwellAdaptation : (39 : Nat) < sweep.ampLo ∧ sweep.ampLo ≤ 40 ∧ elements[0].cls = .short ∧ 1 ≤ sweep.weakLimit
    ∧ (⟨0, 45, true, .long, 0⟩ : Element).cls = .long := by decide +kernel

/-- By sweep state; a member that holds no echo, and one that holds two. -/
theorem test_witness_EchoArrival :
    (running.resetAsserted = false ∧ running.seq.sweep = .idle)
    ∧ (let s := inFlight .waiting []
       s.store.sweeping = some (rec_ 0 .sweeping) ∧ s.seq.sweep = .waiting ∧ (inFlight (.gap 0) []).seq.sweep = .gap 0)
    ∧ (let members : List Member := [⟨0, [], false⟩, ⟨32, [echo 32 5000, echo 32 5001], false⟩]
       let s0 := inFlight (.dwell 0) [⟨0, true, 8⟩]
       let s : State := { s0 with echo := { s0.echo with acceptance := some members } }
       s.seq.sweep = .dwell 0 ∧ s.echo.acceptance = some members ∧ s.store.sweeping = some (rec_ 0 .sweeping)
         ∧ (∀ m ∈ members, m.element ≠ (echo 63 5000).element.val)
         ∧ (members.find? fun x => x.element == (echo 32 5000).element.val) = some ⟨32, [echo 32 5000, echo 32 5001], false⟩
         ∧ 2 ≤ [echo 32 5000, echo 32 5001].length
         ∧ (members.find? fun x => x.element == (echo 0 5000).element.val) = some ⟨0, [], false⟩
         ∧ (echo 0 5000).codeMatch = true) := by decide +kernel

theorem test_witness_RangeOfEcho : (1048575 : Nat) ≤ 1048575 ∧ (360000 : Nat) ≤ 400000 ∧ (400000 : Nat) ≤ 400000
    ∧ (-5000 : Int) ≤ -5000 ∧ (-5000 : Int) ≤ 5000 ∧ rangeOf 400000 (-5000) 1048575 = 6404994 ∧ rangeOf 360000 5000 0 = -5000 := by
  decide +kernel

/-- At TOF_MIN and one short of it, past DMAX, and on the origin. -/
theorem test_witness_DisposalOfEcho :
    ((echo 0 499).tof.toNat < survey.tofMin)
    ∧ (survey.tofMin ≤ (echo 0 20000).tof.toNat ∧ (survey.dMax : Int) < rangeOf survey.ks 45 (echo 0 20000).tof.toNat)
    ∧ (let d := rangeOf survey.ks 45 (echo 0 5000).tof.toNat
       survey.tofMin ≤ (echo 0 5000).tof.toNat ∧ (survey.dMin : Int) ≤ d ∧ d ≤ survey.dMax
         ∧ -29220 + roundHalfAway (d * cosine 0) 32768 = 0 ∧ 0 + roundHalfAway (d * sine 0) 32768 = 0
         ∧ ¬ (0 + roundHalfAway (d * cosine 0) 32768 = 0)) := by decide +kernel

theorem test_witness_QualityOfEcho : ({ echo 0 5000 with saturated := true } : EchoRecord).saturated = true
    ∧ ({ echo 0 5000 with amplitude := 1 } : EchoRecord).amplitude.toNat ≤ 1 := by decide

/-- A half away from zero, of either sign, and a half up. -/
theorem test_witness_RoundingsAreNearest : (1 : Nat) ≤ 2 ∧ 2 * |((2 : Nat) : Int) * roundHalfAway (-1) 2 - (-1)| = 2
    ∧ roundHalfAway (-1) 2 = -1 ∧ roundHalfUp 1 2 = 1 := by decide +kernel

theorem test_witness_InterpolatedSine : ((65472 : Int) % 65536).toNat % 64 = 0 ∧ (512 : Nat) ≤ 512 ∧ (255 : Nat) < 256 := by decide

/-- Points on the first and the last ray. -/
theorem test_witness_ExactlyOneBin : ¬ ((0 : Int) = 0 ∧ (-1 : Int) = 0)
    ∧ (cosineTable 0 * 0 - sineTable 0 * 1 = 0 ∧ 0 < cosineTable 0 * 1 + sineTable 0 * 0)
    ∧ (cosineTable 1023 * sineTable 1023 - sineTable 1023 * cosineTable 1023 = 0
        ∧ 0 < cosineTable 1023 * cosineTable 1023 + sineTable 1023 * sineTable 1023) := by decide +kernel

/-- A segment over every bin, and one over bin 0 alone with bin 1023 uncovered. -/
theorem test_witness_EnvelopeExpansion :
    (∀ g, some g ∈ [some (⟨0, 1023, 10000, 300000⟩ : Segment)] → g.inRange)
    ∧ (([some (⟨0, 1023, 10000, 300000⟩ : Segment)].filterMap id).Pairwise fun g h => ∀ b : Nat, ¬ (g.covers b = true ∧ h.covers b = true))
    ∧ (⟨0, 1023, 10000, 300000⟩ : Segment).covers 1023 = true
    ∧ ∀ g, some g ∈ [some (⟨0, 0, 10000, 10000⟩ : Segment)] → g.covers 1023 = false := by
  refine ⟨?_, by simp, by decide, ?_⟩ <;> simp +decide [Segment.inRange, Segment.covers]

theorem test_witness_ClearanceSaturates : (-32767 : Int) ≤ (10000 : Nat) - (42767 : Nat) ∧ (32767 : Int) < (42768 : Nat) - (10000 : Nat)
    ∧ ((10000 : Nat) : Int) - (42768 : Nat) < -32767 := by decide

theorem test_witness_BinRecordGathersItsPoints :
    [BinRecord.fresh 0 1, BinRecord.fresh 1023 2].Pairwise (fun x y => x.bin < y.bin)
    ∧ (∀ x ∈ [BinRecord.fresh 0 1, BinRecord.fresh 1023 2], x.bin ≠ 5)
    ∧ (∃ x ∈ [BinRecord.fresh 0 1, BinRecord.fresh 1023 2], x.bin = 1023) ∧ some 26500 ≠ (none : Option Nat) := by decide

/-- 128 bin records make five parts; and the mean radius of a bin without a LAST point, and of one whose mean is an exact half. -/
theorem test_witness_ReportParts :
    ((BinRecord.fresh 0 70).nLast = 0
      ∧ (let b : BinRecord := { BinRecord.fresh 0 70 with nLast := 2, rSum := 20001 }
         1 ≤ b.nLast ∧ b.entry.meanRadius = some 10001)) ∧
    let r : SectionRecord := { rec_ 0 .sending with bins := (List.range 128).map fun b => BinRecord.fresh b 70 }
    1 < r.partCount ∧ 0 + 1 < r.partCount ∧ r.bins.length ≤ 128 ∧ r.partCount = 5 := by decide +kernel

theorem test_witness_DrainHandled :
    (let s := with_ .drain 15 [] (holding [rec_ 0 .sending, rec_ 1 .held] .idle running)
     s.resetAsserted = false ∧ s.ctrl.station = .run ∧ s.store.records = [rec_ 0 .sending] ++ [rec_ 1 .held])
    ∧ (let s := with_ .drain 15 [] { running with line := { running.line with groupA := List.replicate 3 ⟨2, .drained none⟩ } }
       s.store.records = [] ∧ s.store.drainPending = false ∧ s.line.groupA.length < 4) := by decide +kernel

theorem test_witness_WindowCloses :
    (let r : SectionRecord := { rec_ 1 .held with windowTimer := true }
     let s := holding [rec_ 0 .sending, r] .idle running
     s.resetAsserted = false ∧ s.store.find 1 = some r ∧ r.state = .held ∧ r.windowTimer = true)
    ∧ (rec_ 1 .held).windowCount ≤ 2 ∧ setup.stitch = some (.sections, 2) := by decide +kernel

/-- A state that transmits. -/
def sending (g : TxGroup) (condemned : Bool) (line : Line) (s : State) : State :=
  { s with line := { line with tx := some ⟨g, frameOf 3 ⟨31, .drained none⟩, condemned⟩ } }

/-- A record of bin records whose every part is queued but so many. -/
def reporting (bins queued : Nat) : SectionRecord :=
  { rec_ 0 .sending with bins := (List.range bins).map fun b => BinRecord.fresh b 70, partsQueued := queued }

/-- Group A with a telegram owed; group C with a part to enter, with none to enter, and with the last part, marked and unmarked; a
condemned part with no record in the store, and a part of no SENDING record; a READY record behind it; and group A full with seven owed DRAINED and with eight. -/
theorem test_witness_TransmissionCompletes :
    (let s0 := sending .a false { running.line with groupA := List.replicate 4 ⟨2, .drained none⟩ } running
     let s : State := { s0 with watch := { s0.watch with owed := [⟨4, .drained none⟩] } }
     s.resetAsserted = false ∧ s.line.groupA = ⟨2, .drained none⟩ :: List.replicate 3 ⟨2, .drained none⟩
       ∧ s.watch.owed = ⟨4, .drained none⟩ :: [])
    ∧ (let r := reporting 128 4
       let queue : List Telegram := (List.range' 1 3).map fun i => ⟨31, .report (r.part i)⟩
       let s := sending .c false { running.line with groupC := ⟨31, .report (r.part 0)⟩ :: queue } (holding [r] .idle running)
       s.store.records = r :: [] ∧ s.line.groupC = ⟨31, .report (r.part 0)⟩ :: queue ∧ r.number = (r.part 0).number
         ∧ r.partsQueued < r.partCount ∧ queue.length < 8 ∧ (r.part 0).index + 1 < (r.part 0).count)
    ∧ (let r := reporting 128 5
       r.partCount ≤ r.partsQueued ∧ (r.part 3).index + 1 < (r.part 3).count ∧ (r.part 4).index + 1 = (r.part 4).count)
    ∧ (let marked : SectionRecord := (reporting 26 1).onSummary fun m => { m with drainMark := true }
       let s0 := sending .c false { running.line with groupC := [⟨31, .report (marked.part 0)⟩] } (holding [marked] .idle running)
       let s : State := { s0 with store := { s0.store with drainPending := true, drainTarget := some 0, drainRequester := some 15 } }
       s.store.records = marked :: [] ∧ marked.partCount ≤ marked.partsQueued ∧ (marked.part 0).index + 1 = (marked.part 0).count
         ∧ marked.summary.drainMark = true ∧ s.line.groupA.length < 4 ∧ s.store.drainRequester = some 15
         ∧ (reporting 26 1).summary.drainMark = false)
    ∧ (let s := sending .c true { running.line with groupC := [⟨31, .report ((reporting 26 1).part 0)⟩] } running
       s.line.tx = some ⟨.c, frameOf 3 ⟨31, .drained none⟩, true⟩ ∧ s.store.records = []
         ∧ s.line.groupC = ⟨31, .report ((reporting 26 1).part 0)⟩ :: [])
    ∧ (∀ r ∈ [rec_ 1 .held].head?, ¬ (r.state = .sending ∧ r.number = ((reporting 26 1).part 0).number))
    ∧ (let s := holding [reporting 26 1, rec_ 1 .ready] .idle running
       s.store.records = reporting 26 1 :: rec_ 1 .ready :: [] ∧ (rec_ 1 .ready).state = .ready)
    ∧ ([7, 8].map fun n => ((List.replicate n (⟨2, .drained none⟩ : Telegram)).filter Telegram.isDrained).length) = [7, 8]
    ∧ ¬ setup.fatal .txDropped := by
  refine ⟨?_, ?_, ?_, ?_, ?_, ?_, ?_, ?_, not_fatal (by decide)⟩ <;> decide +kernel

/-- Each test of the ownership rule at a difference of one, against the first of two entries; and an edge with and without the gap flag,
to a bin in the zone and one outside it. -/
theorem test_witness_OwnershipDecidesOnce :
    (let b : BinRecord := { BinRecord.fresh 500 70 with nLast := 2 }
     (∀ e ∈ [(⟨501, 0, 0⟩ : EdgeEntry)], e.bin ≠ b.bin)
     ∧ [(⟨501, 0, 0⟩ : EdgeEntry), ⟨500, 69, 2⟩, ⟨500, 71, 2⟩] = [⟨501, 0, 0⟩] ++ ⟨500, 69, 2⟩ :: [⟨500, 71, 2⟩]
     ∧ (69 < b.qBest ∧ b.qBest < 71 ∧ b.qBest = 70 ∧ 1 < b.nLast ∧ b.nLast < 3 ∧ b.nLast = 2 ∧ (3 : Nat) < 4 ∧ (2 : Nat) ≤ 3))
    ∧ (let mine : BinRecord := { BinRecord.fresh 500 70 with nLast := 2 }
     let yours : BinRecord := { BinRecord.fresh 500 70 with nLast := 1 }
     (3 : Nat) ≠ 4 ∧ mine.bin = yours.bin
       ∧ ([⟨500, 70, 1⟩].find? fun e : EdgeEntry => e.bin == mine.bin) = some ⟨yours.bin, yours.qBest, yours.nLast⟩
       ∧ ([⟨500, 70, 2⟩].find? fun e : EdgeEntry => e.bin == yours.bin) = some ⟨mine.bin, mine.qBest, mine.nLast⟩)
    ∧ (let r : SectionRecord := { rec_ 0 .held with bins := [BinRecord.fresh 300 70, BinRecord.fresh 531 70] }
       r.summary.cededCount = (r.bins.filter fun b => b.ceded).length ∧ setup.inZone .left 300 = true
         ∧ setup.inZone .left 531 = false ∧ setup.neighbour .left = some 2
         ∧ [71, 69].map (fun q => ownership 3 2 [⟨300, q, 0⟩] (BinRecord.fresh 300 70)) = [.lost, .won]
         ∧ ownership 3 2 [] (BinRecord.fresh 300 70) = .kept) := by decide +kernel

/-- An EDGE of a section, with a side code and so many entries. -/
def edgeOf (section_ side : Nat) (entries : Nat) : List Byte :=
  put24 section_ ++ [BitVec.ofNat 8 side, BitVec.ofNat 8 entries] ++ List.replicate (4 * entries) 0

/-- The premises of an EDGE in a state: accepted, and of admitted length. -/
def edgeAdmitted (s : State) (p : List Byte) : Bool :=
  !s.resetAsserted && decide (s.ctrl.station = .run) && decide (5 ≤ p.length) && decide (p.length = 5 + 4 * byteAt p 4)

theorem test_witness_EdgeHandled :
    (edgeAdmitted running (edgeOf 0 2 33) = true ∧ 32 < byteAt (edgeOf 0 2 33) 4)
    ∧ (edgeAdmitted running (edgeOf 0 3 32) = true ∧ byteAt (edgeOf 0 3 32) 3 % 4 = 3 ∧ byteAt (edgeOf 0 3 32) 4 ≤ 32)
    ∧ (setup.neighbour .left = some 2 ∧ byteAt (edgeOf 0 0 0) 3 % 4 = 0)
    ∧ (setup.neighbour .left ≠ some 4 ∧ setup.neighbour .right = some 4 ∧ byteAt (edgeOf 0 1 0) 3 % 4 = 1)
    ∧ (setup.neighbour .left ≠ some 9 ∧ setup.neighbour .right ≠ some 9)
    ∧ running.store.find (word24At (edgeOf 0 2 0) 0) = none
    ∧ [RecordState.sweeping, .held, .ready, .sending].all (fun st =>
        let s := holding [rec_ 0 st] .idle running
        edgeAdmitted s (edgeOf 0 2 0) && decide (s.store.find (word24At (edgeOf 0 2 0) 0) = some (rec_ 0 st))) = true
    ∧ ((rec_ 0 .sweeping).heldEdge .left = none ∧ (rec_ 0 .held).side .right = .awaited)
    ∧ (({ rec_ 0 .sweeping with leftEdge := some ⟨true, []⟩ } : SectionRecord).heldEdge .left).isSome = true
    ∧ ({ rec_ 0 .held with rightSide := .closed } : SectionRecord).side .right ≠ .awaited := by decide +kernel

/-- A local record of a span. -/
def local_ (first last : Nat) (state : WatchState) (id : Option Nat) : LocalRecord :=
  { first := first, last := last, state := state, confirm := 1, clearCount := 0, minClearance := -5, firstSection := 0, lastSection := 0,
    id := id, corroborated := false, owed := false }

/-- An INTRUSION bin, and a viewed bin of a clearance. -/
def intruding (n : Nat) : BinRecord := { BinRecord.fresh n 70 with cMin := some (-5), intrusion := true }
def viewing (n : Nat) (c : Int) : BinRecord := { BinRecord.fresh n 70 with cMin := some c }

/-- 08, Worked sequence, and the worked merge: the records D, E and F and the span 305..312 are one group. -/
theorem test_worked_merge :
    (gatherGroups 1 [⟨305, 312, -60⟩] [local_ 300 304 .raised (some 4), local_ 308 310 .pending none, local_ 313 315 .raised (some 2)]).1.map
        (fun g => (g.first, g.last, g.locals.length)) = [(300, 315, 3)]
    ∧ (spansOf [intruding 500, intruding 502, intruding 610]).map (fun p => (p.first, p.last)) = [(500, 502), (610, 610)] := by
  decide +kernel

/-- Bins 2 apart and more; spans 3 apart; a full table of ids; a span near a record by 2; records viewed at HYST and one below it; two
records matched by one span, with ids and without; and a completion with a free slot in group B for each EDGE. -/
theorem test_witness_SpansOfSection :
    ([intruding 0, intruding 2, intruding 1023].Pairwise (fun x y => x.bin < y.bin)
      ∧ (∀ x ∈ [intruding 0, intruding 2, intruding 1023], x.intrusion = true → x.cMin.isSome = true)
      ∧ (spansOf [intruding 0, intruding 2, intruding 1023]).map (fun p => (p.first, p.last)) = [(0, 2), (1023, 1023)])
    ∧ ([(⟨0, 2, -5⟩ : Span), ⟨5, 5, -5⟩].Pairwise fun p q => p.last + 3 ≤ q.first)
    ∧ (let w : Watch := ⟨(List.range 16).map fun i => local_ i i .raised (some i), [], 0, []⟩
       w.locals.length ≤ 16 ∧ w.freeId = some 16)
    ∧ (let r : SectionRecord := { rec_ 0 .sweeping with bins := [intruding 7] }
       Completing (completing setup r) 0 r ∧ (completing setup r).line.groupB.length + (gapEdges setup 0).length ≤ 8
         ∧ spansOf r.bins = [⟨7, 7, -5⟩] ∧ (completing setup r).watch.locals = [] ∧ (completing setup r).watch.peers.length < 16)
    ∧ ((7 : Nat) ≤ (local_ 5 5 .raised (some 1)).last + 2 ∧ (local_ 9 9 .raised (some 2)).first ≤ 7 + 2
       ∧ (local_ 5 5 .pending none).state = .pending ∧ (local_ 5 5 .raised (some 1)).id = some 1 ∧ (1 : Nat) < 2
       ∧ (local_ 5 5 .pending none).first < (local_ 9 9 .pending none).first)
    ∧ (spansOf [viewing 7 100] = [] ∧ spansOf [viewing 7 99] = [] ∧ setup.watchItem.hyst = 100 ∧ setup.watchItem.clearCount = 3
       ∧ [[viewing 7 100], [viewing 7 99], [viewing 8 0]].map
           (fun bs => bs.filterMap fun b => if (local_ 5 7 .easing (some 1)).first ≤ b.bin ∧ b.bin ≤ 7 then b.cMin else none)
             = [[100], [99], []])
    ∧ ¬ setup.fatal .watchFull ∧ ¬ setup.fatal .txDropped := by
  refine ⟨?_, ?_, ?_, ⟨completing_of _ rfl, ?_⟩, ?_, ?_, not_fatal (by decide), not_fatal (by decide)⟩ <;> decide +kernel

/-- An alert of a phase and a span. -/
def alertOf (isEnd : Bool) (first last : Nat) : List Byte := layAlert ⟨isEnd, false, 7, first, last, 0, 0, -5, 0⟩

/-- Span and coverage range widened by GUARD meet in one bin, and miss by one; a table with a record of the source and id, one with
room for one, and a full one. -/
theorem test_witness_PeerAlerts :
    [alertOf true 624 700, alertOf false 624 700, alertOf false 700 624].all (fun p =>
      let s := with_ .alert 2 p running
      !s.resetAsserted && decide (s.ctrl.station = .run) && decide (p.length = 17)) = true
    ∧ (readAlert (alertOf true 624 700)).isEnd = true
    ∧ ((readAlert (alertOf false 700 624)).isEnd = false ∧ (readAlert (alertOf false 700 624)).spanLast < 700)
    ∧ (let meets := fun first => max ((readAlert (alertOf false first 700)).spanFirst : Int) ((zones.coverage.lo : Int) - setup.watchItem.guard)
         ≤ min ((readAlert (alertOf false first 700)).spanLast : Int) ((zones.coverage.hi : Int) + setup.watchItem.guard)
       meets 624 ∧ ¬ meets 625)
    ∧ (∃ p ∈ [(⟨2, 7, 0, 0, 1⟩ : PeerRecord)], p.source = 2 ∧ p.id = (readAlert (alertOf false 624 700)).id)
    ∧ (∀ p ∈ List.replicate 16 (⟨4, 0, 0, 0, 1⟩ : PeerRecord), ¬ (p.source = 2 ∧ p.id = (readAlert (alertOf false 624 700)).id))
    ∧ (running.watch.locals.length + (List.replicate 15 (⟨4, 0, 0, 0, 1⟩ : PeerRecord)).length < 16
        ∧ 16 ≤ running.watch.locals.length + (List.replicate 16 (⟨4, 0, 0, 0, 1⟩ : PeerRecord)).length)
    ∧ setup.zones = some zones ∧ ¬ setup.fatal .watchFull := by
  refine ⟨?_, ?_, ?_, ?_, ?_, ?_, ?_, rfl, not_fatal (by decide)⟩ <;> decide +kernel

/-- Empty groups and a telegram in group C alone; a telegram that enters empty group A while group B, of higher order, holds another; and
one that enters a group that is not empty. -/
theorem test_witness_LineIdleOffers :
    (let s : State := { running with
       ctrl := { running.ctrl with setup := { setup with line := some ⟨48, 2⟩ } }
       line := { running.line with rx := .idle, groupB := [⟨2, .drained none⟩] } }
     let l : Line := { s.line with groupA := s.line.groupA ++ [⟨31, .drained none⟩] }
     s.line.group .a = [] ∧ s.line.group .b ≠ [] ∧ s.line.rx = .idle ∧ s.line.tx = none ∧ s.line.breakSend = false
       ∧ s.ctrl.setup.groupOrder = [] ++ .b :: [.a, .c] ∧ l.group .b = ⟨2, .drained none⟩ :: []) ∧
    (running.resetAsserted = false ∧ running.line.rx = .idleWait ∧ running.line.breakSend = false ∧ running.line.tx = none
      ∧ running.line.groupA = [] ∧ running.line.groupB = [] ∧ running.line.groupC = [])
    ∧ (let l : Line := { running.line with groupC := [⟨31, .drained none⟩] }
       setup.groupOrder = [.a, .b] ++ .c :: [] ∧ (∀ h ∈ [TxGroup.a, .b], l.group h = []) ∧ l.group .c = ⟨31, .drained none⟩ :: [])
    ∧ Setup.empty.line = none ∧ (6 : Nat) ≤ (⟨48, 7⟩ : LineItem).orderCode ∧ (⟨48, 5⟩ : LineItem).orderCode = 5
    ∧ (sending .a false running.line running).line.tx.isSome = true ∧ (sending .a false running.line running).line.breakSend = false
    ∧ (19#7 ∈ [20#7, 19, 24] ∧ ∀ w ∈ [20#7, 19, 24], (19#7).toNat ≤ w.toNat) := by decide +kernel

/-- A header, as received. -/
def headerOf (sender : BitVec 4) (target : BitVec 5) (kind : BitVec 4) (length : BitVec 8) : Header := ⟨0, sender, target, kind, length⟩

/-- A receiver in RECEIVING. -/
def receiving (kept : Option Header) : State := { running with line := { running.line with rx := .receiving 48 kept } }

theorem test_witness_Reception :
    ({ running with line := { running.line with rx := .idle } } : State).line.rx = .idle
    ∧ (receiving none).line.rx = .receiving 48 none ∧ (receiving none).line.tx = none ∧ (receiving none).resetAsserted = false
    ∧ (sending .a false (receiving none).line running).line.tx.isSome = true
    ∧ (headerOf 3 31 0 0).sender = (receiving none).ctrl.ownNumber
    ∧ ((headerOf 2 4 0 0).sender ≠ (receiving none).ctrl.ownNumber ∧ (headerOf 2 4 0 0).target.toNat ≠ (receiving none).ctrl.ownNumber.toNat
        ∧ (headerOf 2 4 0 0).target.toNat ≠ 31)
    ∧ Kind.ofCode 15 = none
    ∧ (Kind.ofCode (headerOf 2 3 0 0).kind = some .start ∧ (receiving none).ctrl.station.accepts .start = true
        ∧ (headerOf 2 3 0 0).target.toNat = (receiving none).ctrl.ownNumber.toNat) := by decide +kernel

/-- A START with a right and a wrong check sequence, with three telegrams in the receive queue and with four. -/
theorem test_witness_CheckSequenceEnds :
    let h := headerOf 2 3 0 0
    (receiving (some h)).line.rx = .receiving 48 (some h) ∧ Kind.ofCode h.kind = some .start ∧ ([] : List Byte).length = h.length.toNat
    ∧ checkSequence h [] ≠ checkSequence h [] + 1 ∧ (List.replicate 3 (⟨2, 3, .start, []⟩ : Received)).length < 4
    ∧ 4 ≤ (List.replicate 4 (⟨2, 3, .start, []⟩ : Received)).length := by decide +kernel

theorem test_witness_TransmissionLost :
    (sending .c false running.line running).line.tx = some ⟨.c, frameOf 3 ⟨31, .drained none⟩, false⟩
    ∧ (sending .c true running.line running).line.tx = some ⟨.c, frameOf 3 ⟨31, .drained none⟩, true⟩
    ∧ ({ running with line := { running.line with judging := true } } : State).line.judging = true
    ∧ running.line.judging = false ∧ running.resetAsserted = false := by decide +kernel

/-- A section in flight and a record before it, and the station in HALTED. -/
theorem test_witness_BreaksHalt :
    (let s := { inFlight .waiting [] with store := { running.store with records := [rec_ 0 .held, rec_ 1 .sweeping] } }
     s.resetAsserted = false ∧ s.ctrl.station = .run ∧ s.seq.sweep ≠ .idle ∧ s.line.tx = none)
    ∧ (running.seq.sweep = .idle ∧ ∀ r ∈ running.store.records, r.state ≠ .sweeping)
    ∧ ¬ setup.fatal .txDropped
    ∧ ((before .halted false []).resetAsserted = false ∧ (before .halted false []).ctrl.station ≠ .run ∧ (before .halted false []).line.tx = none)
    ∧ (∀ x ∈ (sending .b false running.line running).line.tx, x.condemned = false) := by
  refine ⟨?_, ?_, not_fatal (by decide), ?_, ?_⟩ <;> decide +kernel

/-- At a halt a HELD record is closed and reports, the aborted section and its gaps stand in the accumulator, and of the local watch records
the PENDING one alone is gone. -/
theorem test_halt_settles :
    (let gapped : SectionRecord := (rec_ 4 .sweeping).onSummary fun m => { m with gapBefore := 3 }
     let s0 := inFlight .waiting []
     let s : State := { s0 with
       store := { s0.store with records := [rec_ 0 .held, gapped] }
       watch := { s0.watch with locals := [local_ 5 5 .pending none, local_ 9 9 .easing (some 1)] } }
     let t := after .breakDetected s
     t.store.records.map (fun r => (r.number, r.state, r.leftSide)) = [(0, .sending, .closed)] ∧ t.store.gapCount = 4
       ∧ t.store.gapReasons = ⟨true, false, false, false⟩ ∧ t.watch.locals = [local_ 9 9 .easing (some 1)]) := by decide +kernel

/-- Items 32 and 31, and the numbers 0 and 33 that name no item; and the first and the last item of each run of items. -/
theorem test_witness_SetupHandled :
    [1, 2, 3, 10, 11, 12, 13, 24, 25, 28, 29, 30, 31, 32].all (fun n => match itemLength n with
      | some len => decide (byteAt (BitVec.ofNat 8 n :: List.replicate len 0) 0 = n
          ∧ (BitVec.ofNat 8 n :: List.replicate len (0 : Byte)).length = 1 + len)
      | none => false) = true ∧
    [32#8 :: List.replicate 16 0, [31, 48, 0]].all (fun p => decide (1 ≤ p.length)
      && decide (itemLength (byteAt p 0) = some (p.length - 1)) && decide (byteAt p 0 ≤ 32)) = true
    ∧ [[0#8], [33]].all (fun p => decide (itemLength (byteAt p 0) = none) && decide (byteAt p 0 = 0 ∨ 32 < byteAt p 0)) = true
    ∧ [Station.config, .run, .halted].all (fun st => decide ((with_ .setup 0 [31, 48, 0] (at_ st setup)).ctrl.station = st)) = true := by
  decide +kernel

theorem test_witness_RestartHandled :
    (with_ .restart 0 [] running).resetAsserted = false ∧ (with_ .restart 0 [] running).line.queue = ⟨0, 31, .restart, []⟩ :: []
    ∧ (with_ .restart 0 [] (inFlight .waiting [])).seq.sweep ≠ .idle := by decide +kernel

/-- A masked kind, a NOTE, a DEGRADED and a FATAL one, and the FATAL one in FAULT. -/
theorem test_witness_RecordingAKind :
    (setup.policy .rxCheck).severity = .note ∧ (setup.policy .odometer).severity = .degraded
    ∧ (setup.policy .dupStation).severity = .fatal ∧ (setup.policy .dupStation).masked = false
    ∧ running.ctrl.station ≠ .fault ∧ (at_ .fault setup).ctrl.station = .fault
    ∧ (({ setup with faults := some (Vector.replicate 16 ⟨.fatal, true⟩) } : Setup).policy .rxCheck).masked = true := by decide +kernel

theorem test_witness_ClearAndStatusReq :
    ((with_ .clear 0 [255, 255] running).line.queue = ⟨0, 31, .clear, [255, 255]⟩ :: [] ∧ ([255, 255] : List Byte).length = 2)
    ∧ (List.replicate 3 (⟨2, .drained none⟩ : Telegram)).length < 4 ∧ 4 ≤ (List.replicate 4 (⟨2, .drained none⟩ : Telegram)).length
    ∧ (with_ .statusReq 0 [] running).resetAsserted = false := by decide +kernel

/-- A kind not accepted, and lengths not admitted: a START of one byte, and an EDGE of four bytes and of one entry too few. -/
theorem test_witness_HandlerTests :
    (with_ .drain 0 [] (at_ .config setup)).ctrl.station = .config ∧ Kind.drain ∉ [Kind.setup, .start, .restart, .statusReq, .clear]
    ∧ ([0#8]).length ≠ 0 ∧ ¬ (5 ≤ ([0#8, 0, 0, 2]).length)
    ∧ ([0#8, 0, 0, 2, 1]).length ≠ 5 + 4 * byteAt [0, 0, 0, 2, 1] 4
    ∧ (with_ .start 0 [0] running).resetAsserted = false := by decide +kernel

/-- Every field of an ALERT, an EDGE, a REPORT and a STATUS at a limit, and its absent values. -/
theorem test_witness_AlertAndEdgeLayouts :
    (let a : Alert := ⟨true, true, 255, 65535, 65535, 16777215, 16777215, -32768, 16777215⟩
     a.id ≤ 255 ∧ a.spanFirst ≤ 65535 ∧ a.firstSection ≤ 16777215 ∧ -32768 ≤ a.minClearance ∧ readAlert (layAlert a) = a)
    ∧ (let e : EdgeBody := ⟨16777215, .both, false, List.replicate 32 ⟨65535, 255, 255⟩⟩
       e.number ≤ 16777215 ∧ e.entries.length ≤ 32 ∧ (∀ x ∈ e.entries, x.bin ≤ 65535 ∧ x.qBest ≤ 255 ∧ x.nLast ≤ 255)
         ∧ readPeerEdge (layEdge e) = ⟨e.gap, e.entries⟩)
    ∧ (let w : SweepSummary := ⟨-2731, true, 64, 64⟩
       let m : Summary := ⟨some w, 128, 128, 128, 65535, 128, 128, 16777215, ⟨true, true, true, true⟩, true⟩
       let e : ReportEntry := ⟨1023, true, true, true, true, true, 255, 255, some 16777214, some (-32767)⟩
       let r : ReportPart := ⟨16777215, 0, 5, List.replicate 26 e, some m⟩
       let q : ReportPart := ⟨16777215, 4, 5, [{ e with meanRadius := none, cMin := none }], none⟩
       (r.entries.length ≤ 26 ∧ r.summary.isSome = decide (r.index = 0) ∧ (∀ x ∈ r.entries, x.bin ≤ 1023 ∧ x.nLast ≤ 255 ∧ x.qBest ≤ 255
         ∧ (∀ m ∈ x.meanRadius, m < 16777215) ∧ ∀ c ∈ x.cMin, -32768 < c ∧ c ≤ 32767))
       ∧ r.summary = some m ∧ m.sweep = some w ∧ r.entries[25]? = some e
       ∧ q.summary.isSome = decide (q.index = 0) ∧ q.index ≤ 15 ∧ (layReport r).length = 254 ∧ (layReport q).length = 14
       ∧ (layReport q).drop 9 = [255, 255, 255, 128, 0])
    ∧ (let b : StatusBody := ⟨.fault, 15, some .odometer, Vector.replicate 16 ⟨true, 65535⟩, 8, 16, true, some 16777215, none, 1, some 32⟩
       b.occupancy ≤ 255 ∧ b.watchInUse ≤ 255 ∧ (∀ k : Fin 16, b.kinds[k].count ≤ 65535) ∧ (∀ n ∈ b.newest, n ≤ 16777215)
         ∧ (∀ n ∈ b.oldest, n ≤ 16777215) ∧ (∀ i ∈ b.failingItem, i ≤ 255) ∧ (layStatus b).take 4 = [207, 15, 255, 255]
         ∧ (layStatus b).drop 36 = [8, 16, 3, 255, 255, 255, 0, 0, 0, 0, 0, 0, 1, 32])
    ∧ layDrained (some 16777215) = [1, 255, 255, 255] ∧ layDrained none = [0, 0, 0, 0]
    ∧ (frameOf 3 ⟨31, .drained none⟩).payload.length ≤ 255 := by
  refine ⟨?_, ?_, ?_, ?_, ?_, ?_, ?_⟩ <;> decide +kernel

/-! Every invariant holds right after reset, and there is a step from there. -/

theorem test_step_from_reset : step { State.reset with pending := [.lineIdle] } = .next (after .lineIdle State.reset) := by rfl

theorem test_witness_LineCapacityKept :
    LineWithinCapacity State.reset ∧ OwedSound State.reset ∧ WatchSound State.reset ∧ BinsAscend State.reset :=
  ⟨⟨by decide, by decide, by decide, by decide⟩, ⟨fun h => absurd rfl h, fun _ h => (nomatch h), by decide, by decide⟩,
    ⟨by decide, fun _ h => (nomatch h), .nil, .nil, fun _ h => (nomatch h), fun _ h => (nomatch h), fun _ h => (nomatch h),
      fun _ h => (nomatch h), fun b a t h => absurd h.symm (List.append_ne_nil_of_right_ne_nil b (List.cons_ne_nil t a))⟩, fun _ h => (nomatch h)⟩

/-- An absent value is no value. -/
theorem absent {α : Type} {P : Prop} {v : α} (h : none = some v) : P := absurd h.symm (Option.some_ne_none v)

theorem test_witness_RecorderKept : RecorderSound State.reset := ⟨by decide +kernel, fun _ h => absent h, rfl⟩

theorem odometrySound_reset : OdometrySound State.reset :=
  ⟨by decide, by decide, rfl, rfl, fun _ h => absent h, fun h => absurd h (by decide), fun _ h => absent h, by decide⟩

/-- And T_next present, before and after a backward step. -/
theorem test_witness_OdometryKept : OdometrySound running ∧ running.odo.nextThreshold = some 1040
    ∧ step { running with pending := [.phaseTransition ⟨true, true⟩] } = .next (after (.phaseTransition ⟨true, true⟩) running)
    ∧ (after (.phaseTransition ⟨true, true⟩) running).odo.nextThreshold = some 1040 := by
  refine ⟨⟨by decide +kernel, by decide +kernel, rfl, rfl, ?_, fun _ => ⟨survey, rfl⟩, ?_, by decide +kernel⟩, rfl, rfl, by decide +kernel⟩
  · rintro v ⟨⟩; decide +kernel
  · rintro v ⟨⟩; decide +kernel

theorem test_witness_SetupKept : SetupSound State.reset := by
  refine ⟨⟨?_, ?_, ?_, ?_, ?_, ?_, ?_, ?_, ?_, ?_⟩, ?_⟩
  case refine_11 => exact fun k hk => (by decide +kernel : ∀ i : Fin 32, State.reset.ctrl.marks.getLsbD i.val
    = State.reset.ctrl.setup.holds (i.val + 1)) ⟨k, hk⟩
  case refine_3 => exact fun k _ h => absent ((by fin_cases k <;> rfl : State.reset.ctrl.setup.calib[k] = none).symm.trans h)
  case refine_6 => exact fun k _ h => absent ((by fin_cases k <;> rfl : State.reset.ctrl.setup.envelope[k] = none).symm.trans h)
  case refine_7 => exact fun k _ h => absent ((by fin_cases k <;> rfl : State.reset.ctrl.setup.exclusion[k] = none).symm.trans h)
  all_goals exact fun _ h => absent h

theorem storeSound_reset : StoreSound State.reset := by
  have none_ : ∀ {P : SectionRecord → Prop}, ∀ r ∈ State.reset.store.records, P r := fun _ h => absurd h List.not_mem_nil
  exact ⟨by decide, .nil, Nat.le_refl 0, fun _ h => absent h, rfl, none_, none_, fun _ h => absent h, none_, fun h => absurd rfl h,
    fun _ => none_, fun _ => rfl, fun _ => rfl, rfl, rfl, rfl, none_⟩

theorem inFlightSound_reset : InFlightSound State.reset := ⟨⟨rfl, rfl, rfl⟩, rfl, rfl, rfl⟩

/-- And a section in flight whose pair group has put two records for each member into the bin list. -/
theorem test_witness_StoreKept :
    (StoreSound State.reset ∧ OdometrySound State.reset ∧ InFlightSound State.reset ∧ BinsBounded State.reset)
    ∧ (let r : SectionRecord := { rec_ 0 .sweeping with bins := (List.range 4).map fun b => BinRecord.fresh b 70 }
       let s0 := inFlight (.gap 0) [⟨0, true, 8⟩]
       InFlightSound s0 ∧ BinsBounded { s0 with store := { s0.store with records := [r] } }) := by
  refine ⟨⟨storeSound_reset, odometrySound_reset, inFlightSound_reset, fun _ h => (nomatch h), fun _ h => (nomatch h), by decide,
    fun _ h => absent h, fun _ h => absent h⟩, ⟨by decide, ⟨rfl, rfl, rfl⟩, rfl, rfl⟩, by decide +kernel, by decide +kernel,
    by decide +kernel, fun _ h => absent h, fun _ h => absent h⟩

theorem test_witness_FaultHoldsNothingKept : FaultHoldsNothing State.reset := by
  constructor <;> intro h <;> exact nomatch h

theorem test_witness_EmissionKept :
    (EmissionSound State.reset ∧ InFlightSound State.reset ∧ StoreSound State.reset ∧ OdometrySound State.reset)
    ∧ (let s0 := inFlight (.dwell 0) [⟨0, true, 8⟩]
       let s : State := { s0 with
         seq := { s0.seq with rows := (⟨0, true, 8⟩ : FiringGroup).rows, cols := (⟨0, true, 8⟩ : FiringGroup).cols }
         echo := { s0.echo with acceptance := some [⟨0, [], false⟩, ⟨32, [], false⟩] } }
       EmissionSound s ∧ InFlightSound s ∧ s.seq.drives 0 = true ∧ s.seq.drives 32 = true ∧ s.seq.drives 1 = false) := by
  refine ⟨⟨⟨fun h => absurd rfl h, fun _ h => (nomatch h), fun _ => rfl, fun _ => ⟨rfl, rfl⟩⟩, inFlightSound_reset,
    storeSound_reset, odometrySound_reset⟩, ⟨fun _ => rfl, ?_, (fun h => nomatch h), fun h => absurd rfl (h 0)⟩,
    ⟨⟨0, true, 8⟩, rfl, rfl, rfl, rfl, rfl, rfl⟩, by decide +kernel, by decide +kernel, by decide +kernel⟩
  intro g hg e he
  obtain rfl : g = ⟨0, true, 8⟩ := by simpa [inFlight] using hg
  obtain rfl | rfl : e = 0 ∨ e = 32 := by simpa [FiringGroup.members] using he
  · exact ⟨head, ⟨0, false⟩, elements, 0, rfl, rfl, rfl, rfl, by decide +kernel, by decide +kernel⟩
  · exact ⟨head, ⟨0, false⟩, elements, 32, rfl, rfl, rfl, rfl, by decide +kernel, by decide +kernel⟩

end Sys2Proof.Tests
end

/-! The odometry unit under every command: what the commands of the blocks keep, said for any property that the updates of the other
blocks keep, and then P and T_next. -/

namespace Sys2Proof.Machine

/-! ### Properties that only the odometry unit and station control can change -/

/-- The commands that the blocks handle without station control or the odometry unit taking part. -/
def Instr.ofBlocks : Instr → Bool
  | .powerOrPinReset _ _ | .phaseTransition _ | .localStop | .breakDetected | .setup | .start | .restart | .clear
  | .resetAsserted => false
  | _ => true

section
variable {Q : State → Prop} (K : KeptByBlocks Q) {s : State}
include K

/-- A command of the blocks keeps what the updates of the blocks keep. -/
theorem kept_blockCommand {i : Instr} {t : State} (hi : Instr.ofBlocks i = true) (h : Q s) (he : exec i s = .next t) : Q t := by
  have E : ∀ {f : State → State}, live f s = .next t → (Q s → Q (f s)) → Q t :=
    fun e hf => live_next (P := Q) s e h fun _ => hf h
  cases i <;> simp only [exec] at he
  case breakSendEnd => exact E he (K.line _ _)
  case lineIdle => exact E he (kept_lineIdles K)
  case headerEnd => exact E he (kept_headerEnds K)
  case checkSequenceEnd => exact E he (kept_telegramEnds K)
  case quietSpell => exact E he (kept_quietSpellSeen K)
  case contentionLost => exact E he (kept_contentionIsLost K)
  case readbackMismatch => exact E he (kept_readbackMismatches K)
  case readbackTransition => exact E he (kept_readbackTransitionSeen K)
  case transmissionCompletion => exact E he (kept_transmissionCompletes K)
  case edge => exact E he (kept_takeOldest K fun _ _ _ => kept_handleEdge K)
  case alertRaise => exact E he (kept_takeOldest K fun _ _ _ => kept_handleRaise K)
  case alertEnd => exact E he (kept_takeOldest K fun _ _ _ => kept_handleEnd K)
  case statusReq => exact E he (kept_takeOldest K fun _ _ _ => kept_handleStatusReq K)
  case drain => exact E he (kept_takeOldest K fun _ _ _ => kept_handleDrain K)
  case settleExpiry => exact E he (kept_settleExpired K)
  case cantCompletion => exact E he (kept_cantCompleted K)
  case supplyCompletion => exact E he (kept_supplyCompleted K)
  case tempCompletion => exact E he (kept_tempCompleted K)
  case scanIntervalExpiry => exact E he (kept_intervalExpired K)
  case dwellExpiry => exact E he (kept_dwellExpired K)
  case gapExpiry => exact E he (kept_gapExpired K)
  case echoRecord => exact E he (kept_echoArrives K)
  case windowTimerExpiry => exact E he (kept_windowTimerExpired K)
  case firstTransition => exact E he (kept_firstTransitionSeen K)
  all_goals exact absurd hi Bool.false_ne_true

/-- An entry to HALTED keeps what the move itself and the updates of the blocks keep. -/
theorem kept_enterHalted_of_blocks (hH : KeptByHalt Q) (h : Q s) (hr : s.ctrl.station = .run) : Q (enterHalted s) := by
  have ha : Q (abortSection (s.onCtrl fun c => { c with station := .halted })) := kept_abortSection K (hH s h hr)
  have hd : Q (abortForHalt (s.onCtrl fun c => { c with station := .halted })) := by
    unfold abortForHalt; dsimp only; split
    · exact kept_completeDrain K ha
    · exact ha
  unfold enterHalted closeHeld
  exact K.watch _ _ (kept_startReport K (K.store _ _ hd))

theorem kept_localStopFalls_of_blocks (hH : KeptByHalt Q) (h : Q s) : Q (localStopFalls s) := by
  unfold localStopFalls; split
  next hr =>
    refine kept_enterHalted_of_blocks K hH (kept_abandonTx K (K.line _ _ h)) ?_
    rw [abandonTx_ctrl]; exact hr
  next => exact h

theorem kept_breakSeen_of_blocks (hH : KeptByHalt Q) (h : Q s) : Q (breakSeen s) := by
  have hb : Q ((abandonTx (setRx .idleWait s)).onLine fun l => { l with judging := false }) :=
    K.line _ _ (kept_abandonTx K (K.line _ _ h))
  unfold breakSeen; dsimp only; split
  next hr => exact kept_enterHalted_of_blocks K hH hb hr
  next => exact hb

/-- RESTART keeps what the updates of the blocks, its own reset of the odometry unit and its move to CONFIG keep together. -/
theorem kept_handleRestart_of_blocks {x : Received} (h : Q (((s.onCtrl fun c => { c with station := .config }).onOdo
    fun o => { o with base := none, nextThreshold := none, nextSection := 0, limitMark := false })))
    (hf : ∀ t, Q t → Q t.followAttention) : Q (handleRestart x s) := by
  unfold handleRestart; dsimp only
  apply hf; apply K.line; apply K.watch; apply K.store; apply K.conv
  split
  · exact h
  · exact kept_endSweep K h
end

/-! ### What counts as sound odometry, without T_next -/

/-- What recording a kind leaves of P, T_next and the station: as before, or FAULT with base and T_next dropped. -/
theorem record_odo (k : ErrKind) (s : State) :
    ((record k s).odo = s.odo ∧ (record k s).ctrl = s.ctrl)
    ∨ ((record k s).odo = { s.odo with base := none, nextThreshold := none }
      ∧ (record k s).ctrl = { s.ctrl with station := .fault }) := by
  obtain ⟨-, e⟩ | ⟨-, e⟩ | ⟨-, e⟩ := record_cases s k <;> rw [e]
  · exact .inl ⟨rfl, rfl⟩
  · exact .inl ⟨rfl, rfl⟩
  · exact .inr ⟨enterFault_odo _, enterFault_ctrl _⟩

/-- A property of the odometry unit and station control that the entry to FAULT keeps is kept by every block. -/
theorem KeptByBlocks.of_odo_ctrl (P : Odometry → Control → Prop)
    (hf : ∀ o c, P o c → P { o with base := none, nextThreshold := none } { c with station := .fault }) :
    KeptByBlocks fun s => P s.odo s.ctrl where
  conv _ _ h := h
  seq _ _ h := h
  echo _ _ h := h
  store _ _ h := h
  watch _ _ h := h
  line _ _ h := h
  rcd s k h := by
    obtain ⟨ho, hc⟩ | ⟨ho, hc⟩ := record_odo k s <;> rw [ho, hc]
    · exact h
    · exact hf _ _ h

/-- A trigger leaves the stored setup alone. -/
@[simp] theorem triggerSection_setup (n : Nat) (s : State) : (triggerSection n s).ctrl.setup = s.ctrl.setup :=
  kept_triggerSection (KeptByBlocks.of_odo_ctrl (fun _ c => c.setup = s.ctrl.setup) fun _ _ h => h) rfl

/-- A trigger leaves P alone. -/
@[simp] theorem triggerSection_pos (n : Nat) (s : State) : (triggerSection n s).odo.pos = s.odo.pos :=
  kept_triggerSection (KeptByBlocks.of_odo_ctrl (fun o _ => o.pos = s.odo.pos) fun _ _ h => h) rfl

/-- `OdometrySound` but for P being below T_next: P, T_next and the numbers while a crossing is being handled. -/
structure OdometryRange (o : Odometry) (c : Control) : Prop where
  low       : -2147483648 ≤ o.pos
  high      : o.pos ≤ 2147483647
  base      : o.base.isSome = c.station.surveys
  threshold : o.nextThreshold.isSome = c.station.surveys
  spacing   : c.station.surveys = true → ∃ v : Survey, c.setup.survey = some v
  positive  : ∀ v : Survey, c.setup.survey = some v → 1 ≤ v.spacing
  number    : o.nextSection ≤ 16777215

/-- Sound odometry, with T_next, where it is present, no lower than the odometry unit `o₀` had it. -/
structure OdometryAdvanced (o₀ : Odometry) (o : Odometry) (c : Control) : Prop where
  range     : OdometryRange o c
  below     : ∀ w : Int, o.nextThreshold = some w → o.pos < w
  notLower  : ∀ v w : Int, o₀.nextThreshold = some v → o.nextThreshold = some w → v ≤ w

theorem odometrySound_iff (s : State) : OdometrySound s ↔ OdometryAdvanced s.odo s.odo s.ctrl := by
  constructor
  · rintro ⟨low, high, base, threshold, below, spacing, positive, number⟩
    exact ⟨⟨low, high, base, threshold, spacing, positive, number⟩, below, fun v w hv hw => by simp_all⟩
  · rintro ⟨⟨low, high, base, threshold, spacing, positive, number⟩, below, -⟩
    exact ⟨low, high, base, threshold, below, spacing, positive, number⟩

theorem OdometryAdvanced.sound {o₀ : Odometry} {s : State} (h : OdometryAdvanced o₀ s.odo s.ctrl) : OdometrySound s :=
  (odometrySound_iff s).2 ⟨h.range, h.below, fun v w hv hw => by simp_all⟩

/-- Where base and T_next are dropped and the station leaves RUN and HALTED, the odometry stays sound. -/
theorem OdometryRange.dropped {o o' : Odometry} {c c' : Control} (h : OdometryRange o c) (hs : c'.station.surveys = false)
    (hu : c'.setup = c.setup) (hp : o'.pos = o.pos) (hb : o'.base = none) (ht : o'.nextThreshold = none)
    (hn : o'.nextSection ≤ 16777215) : OdometryRange o' c' where
  low := hp ▸ h.low
  high := hp ▸ h.high
  base := by simp [hb, hs]
  threshold := by simp [ht, hs]
  spacing hr := by simp [hs] at hr
  positive v hv := h.positive v (hu ▸ hv)
  number := hn

/-- With no T_next, nothing is lowered. -/
theorem OdometryAdvanced.of_none {o₀ o : Odometry} {c : Control} (ht : o.nextThreshold = none) (h : OdometryRange o c) :
    OdometryAdvanced o₀ o c :=
  ⟨h, fun w hw => by simp [ht] at hw, fun v w _ hw => by simp [ht] at hw⟩

/-- Every block keeps sound odometry: only the entry to FAULT, in the recording of a kind, touches it. -/
theorem keptByBlocks_odometryAdvanced (o₀ : Odometry) : KeptByBlocks fun s => OdometryAdvanced o₀ s.odo s.ctrl :=
  .of_odo_ctrl _ fun _ _ h => .of_none rfl (h.range.dropped rfl rfl rfl rfl rfl h.range.number)

/-! ### Counting and crossings -/

/-- A crossing is being handled at `p`: P stands there, and so does T_next if it is still present. -/
structure AtThreshold (p : Int) (o : Odometry) (c : Control) : Prop where
  range : OdometryRange o c
  pos   : o.pos = p
  meets : ∀ w : Int, o.nextThreshold = some w → w = p

theorem keptByBlocks_atThreshold (p : Int) : KeptByBlocks fun s => AtThreshold p s.odo s.ctrl :=
  .of_odo_ctrl _ fun _ _ h => ⟨h.range.dropped rfl rfl rfl rfl rfl h.range.number, h.pos, fun w hw => by simp at hw⟩

/-- T_next advanced by SPACING lies above P, and above where it was. -/
theorem AtThreshold.advance {p : Int} {o₀ o : Odometry} {c : Control} {v : Survey} (h : AtThreshold p o c)
    (hv : c.setup.survey = some v) (h₀ : ∀ x : Int, o₀.nextThreshold = some x → x ≤ p) :
    OdometryAdvanced o₀ { o with nextThreshold := o.nextThreshold.map (· + (v.spacing : Int)) } c := by
  have hsp := h.range.positive v hv
  have hw : ∀ w : Int, o.nextThreshold.map (· + (v.spacing : Int)) = some w → w = p + v.spacing := by
    intro w hw
    obtain ⟨x, hx, rfl⟩ := Option.map_eq_some_iff.1 hw
    rw [h.meets x hx]
  refine ⟨⟨h.range.low, h.range.high, h.range.base, ?_, h.range.spacing, h.range.positive, h.range.number⟩, ?_, ?_⟩
  · simpa using h.range.threshold
  · intro w hw'
    have := hw w hw'
    have := h.pos
    simp only
    omega
  · intro x w hx hw'
    have := hw w hw'
    have := h₀ x hx
    omega

/-- The next section number stays within its range. -/
theorem advanceNumber_advanced {o₀ : Odometry} {n : Nat} {s : State} (hn : n ≤ 16777215)
    (h : OdometryAdvanced o₀ s.odo s.ctrl) : OdometryAdvanced o₀ (advanceNumber n s).odo (advanceNumber n s).ctrl := by
  obtain ⟨⟨low, high, base, threshold, spacing, positive, number⟩, below, notLower⟩ := h
  unfold advanceNumber
  split
  next =>
    exact (keptByBlocks_odometryAdvanced o₀).rcd _ _
      ⟨⟨low, high, base, threshold, spacing, positive, number⟩, below, notLower⟩
  next hne =>
    have : n + 1 ≤ 16777215 := by unfold Config.lastSection at hne; omega
    exact ⟨⟨low, high, base, threshold, spacing, positive, this⟩, below, notLower⟩

theorem thresholdCrossed_advanced {o₀ : Odometry} {s : State} (h : AtThreshold s.odo.pos s.odo s.ctrl)
    (hs : s.ctrl.station.surveys = true) (h₀ : ∀ x : Int, o₀.nextThreshold = some x → x ≤ s.odo.pos) :
    OdometryAdvanced o₀ (thresholdCrossed s).odo (thresholdCrossed s).ctrl := by
  obtain ⟨v, hv⟩ := h.range.spacing hs
  unfold thresholdCrossed
  simp only [hv]
  split
  · simpa using h.advance hv h₀
  · have ht := kept_triggerSection (n := s.odo.nextSection) (keptByBlocks_atThreshold s.odo.pos) h
    have hu : (triggerSection s.odo.nextSection s).ctrl.setup.survey = some v := by rw [triggerSection_setup, hv]
    exact advanceNumber_advanced h.range.number (ht.advance hu h₀)

theorem surveys_iff (x : Station) : x.surveys = true ↔ x = .run ∨ x = .halted := by simp [Station.surveys]

theorem stepForward_advanced {s : State} (h : OdometryAdvanced s.odo s.odo s.ctrl) :
    OdometryAdvanced s.odo (stepForward s).odo (stepForward s).ctrl := by
  obtain ⟨⟨low, high, base, threshold, spacing, positive, number⟩, below, notLower⟩ := id h
  by_cases hp : s.odo.pos = 2147483647
  · rw [stepForward_limit s hp]
    exact (keptByBlocks_odometryAdvanced s.odo).rcd _ _ h
  have hlt : s.odo.pos < 2147483647 := by omega
  have hrange : OdometryRange { s.odo with pos := s.odo.pos + 1 } s.ctrl :=
    ⟨by simp only; omega, by simp only; omega, base, threshold, spacing, positive, number⟩
  by_cases hc : (s.ctrl.station = .run ∨ s.ctrl.station = .halted) ∧ s.odo.nextThreshold = some (s.odo.pos + 1)
  · obtain ⟨hr, hm⟩ := hc
    rw [stepForward_crosses s hlt hr hm]
    refine thresholdCrossed_advanced ⟨hrange, rfl, fun w hw => ?_⟩ ((surveys_iff _).2 hr) fun x hx => ?_
    · exact Option.some.inj (hw.symm.trans hm)
    · exact le_of_eq (Option.some.inj (hx.symm.trans hm))
  · rw [stepForward_eq s hlt hc]
    refine ⟨hrange, fun w hw => ?_, notLower⟩
    have hw' : s.odo.nextThreshold = some w := hw
    have hsv : s.ctrl.station.surveys = true := by rw [← threshold, hw']; rfl
    have hne : w ≠ s.odo.pos + 1 := fun e => hc ⟨(surveys_iff _).1 hsv, e ▸ hw'⟩
    have := below w hw'
    show s.odo.pos + 1 < w
    omega

theorem stepBackward_advanced {s : State} (h : OdometryAdvanced s.odo s.odo s.ctrl) :
    OdometryAdvanced s.odo (stepBackward s).odo (stepBackward s).ctrl := by
  obtain ⟨⟨low, high, base, threshold, spacing, positive, number⟩, below, notLower⟩ := id h
  by_cases hp : s.odo.pos = -2147483648
  · rw [stepBackward_limit s hp]
    exact (keptByBlocks_odometryAdvanced s.odo).rcd _ _ h
  · rw [stepBackward_eq s (by omega)]
    refine ⟨⟨?_, ?_, base, threshold, spacing, positive, number⟩, fun w hw => ?_, notLower⟩
    · simp only [State.onOdo_odo]; omega
    · simp only [State.onOdo_odo]; omega
    · have := below w hw
      simp only [State.onOdo_odo]; omega

theorem pairSampled_advanced (pair : Phase) {s : State} (h : OdometryAdvanced s.odo s.odo s.ctrl) :
    OdometryAdvanced s.odo (pairSampled pair s).odo (pairSampled pair s).ctrl := by
  have relabel : ∀ t : State, OdometryAdvanced s.odo t.odo t.ctrl →
      OdometryAdvanced s.odo (t.onOdo fun o => { o with phase := pair }).odo t.ctrl :=
    fun _ ⟨⟨low, high, base, threshold, spacing, positive, number⟩, below, notLower⟩ =>
      ⟨⟨low, high, base, threshold, spacing, positive, number⟩, below, notLower⟩
  unfold pairSampled; dsimp only
  split
  · exact h
  · refine relabel _ ?_
    split
    · exact (keptByBlocks_odometryAdvanced s.odo).rcd _ _ h
    · split
      · split
        · exact stepForward_advanced h
        · exact stepBackward_advanced h
      · exact h

/-! ### Station control -/

/-- The START checks pass exactly when no item fails. -/
theorem startChecks_eq_none (own : Nat) (u : Setup) :
    startChecks own u = none ↔ ∀ item : Nat, 1 ≤ item → item ≤ 32 → itemFails own u item = false := by
  unfold startChecks
  simp only [List.find?_eq_none, List.mem_range'_1, Bool.not_eq_true]
  exact ⟨fun h i h1 h2 => h i ⟨h1, by omega⟩, fun h i ⟨h1, h2⟩ => h i h1 (by omega)⟩

/-- With the START checks passed, a survey is stored. -/
theorem survey_of_startChecks {own : Nat} {u : Setup} (h : startChecks own u = none) : ∃ v, u.survey = some v := by
  have h1 := (startChecks_eq_none own u).1 h 1 (by omega) (by omega)
  cases hv : u.survey with
  | none => simp [itemFails, hv] at h1
  | some v => exact ⟨v, rfl⟩

/-- The odometry unit at entry into RUN: section 0 triggered from the base, then T_next and the next number set. -/
theorem startOdometry_eq {s : State} {v : Survey} (hv : s.ctrl.setup.survey = some v) :
    startOdometry s =
      (triggerSection 0 (s.onOdo fun o => { o with base := some o.pos, nextSection := 0, limitMark := false })).onOdo
        fun o => { o with nextThreshold := o.base.map (· + (v.spacing : Int)), nextSection := 1 } := by
  unfold startOdometry
  simp [hv]

/-- The entry into RUN from CONFIG, up to the odometry unit's part. -/
theorem enterRun_eq (s : State) : enterRun s = startOdometry { s with
    ctrl := { s.ctrl with station := .run, failingItem := none }
    env := expandEnvelope s.ctrl.setup.envelope.toList
    seq := { s.seq with table := some (initTable s.ctrl.setup) }
    watch := Watch.cleared } := by
  unfold enterRun
  dsimp only [State.onCtrl, State.onSeq, State.onWatch]

/-- The trigger of section 0 leaves the base at P, unless it enters FAULT. -/
theorem triggerSection_base {n : Nat} {s : State} (hb : s.odo.base = some s.odo.pos) (hr : s.ctrl.station.surveys = true) :
    (triggerSection n s).odo.base = if (triggerSection n s).ctrl.station.surveys then some s.odo.pos else none :=
  kept_triggerSection (n := n) (s := s) (KeptByBlocks.of_odo_ctrl
    (fun o c => o.base = if c.station.surveys then some s.odo.pos else none) fun _ _ _ => rfl) (by simp [hb, hr])

/-- At the entry into RUN, T_next is taken above P from the base, unless the trigger of section 0 has entered FAULT. -/
theorem startOdometry_advanced {o₀ : Odometry} {s : State} {v : Survey} (hv : s.ctrl.setup.survey = some v)
    (hr : s.ctrl.station.surveys = true) (hp : ∀ v : Survey, s.ctrl.setup.survey = some v → 1 ≤ v.spacing)
    (hl : -2147483648 ≤ s.odo.pos) (hh : s.odo.pos ≤ 2147483647) (h₀ : o₀.nextThreshold = none) :
    OdometryAdvanced o₀ (startOdometry s).odo (startOdometry s).ctrl := by
  have hsp := hp v hv
  rw [startOdometry_eq hv]
  have hpos := triggerSection_pos 0 (s.onOdo fun o => { o with base := some o.pos, nextSection := 0, limitMark := false })
  have hset := triggerSection_setup 0 (s.onOdo fun o => { o with base := some o.pos, nextSection := 0, limitMark := false })
  have hbase := triggerSection_base (n := 0)
    (s := s.onOdo fun o => { o with base := some o.pos, nextSection := 0, limitMark := false }) rfl hr
  generalize triggerSection 0 _ = t at hpos hset hbase ⊢
  simp only [State.onOdo_odo, State.onOdo_ctrl] at hpos hset hbase ⊢
  constructor
  · constructor
    case low => simpa [hpos] using hl
    case high => simpa [hpos] using hh
    case base => rw [hbase]; split <;> simp_all
    case threshold => simp only [hbase]; split <;> simp_all
    case spacing => exact fun _ => ⟨v, by rw [hset, hv]⟩
    case positive => rwa [hset]
    case number => simp
  · intro w hw
    simp only [hbase] at hw
    split at hw
    · cases hw; simp only [hpos]; omega
    · cases hw
  · intro x w hx; simp [h₀] at hx

theorem handleStart_advanced (x : Received) {s : State} (h : OdometryAdvanced s.odo s.odo s.ctrl) :
    OdometryAdvanced s.odo (handleStart x s).odo (handleStart x s).ctrl := by
  obtain ⟨⟨low, high, base, threshold, spacing, positive, number⟩, below, notLower⟩ := id h
  unfold handleStart
  split
  next hc =>
    split
    next =>
      exact (keptByBlocks_odometryAdvanced s.odo).rcd _ _
        ⟨⟨low, high, base, threshold, spacing, positive, number⟩, below, notLower⟩
    next hok =>
      obtain ⟨v, hv⟩ := survey_of_startChecks hok
      have hnone : s.odo.nextThreshold = none := by simpa [hc, Station.surveys] using threshold
      rw [enterRun_eq]
      exact startOdometry_advanced (v := v) hv rfl positive low high hnone
  next hc =>
    have hs : s.ctrl.station.surveys = true := by rw [hc]; rfl
    exact ⟨⟨low, high, base.trans hs, threshold.trans hs, fun _ => spacing hs, positive, number⟩, below, notLower⟩
  all_goals exact h

/-- Storing an item leaves SPACING positive. -/
theorem storeItem_spacing {u : Setup} {p : List Byte} (h : ∀ v : Survey, u.survey = some v → 1 ≤ v.spacing) :
    ∀ v : Survey, (u.storeItem p).survey = some v → 1 ≤ v.spacing := by
  intro v hv
  by_cases hi : byteAt p 0 = 1
  · have e : u.storeItem p = { u with survey := some (readSurvey p) } := by unfold Setup.storeItem; exact if_pos hi
    rw [e] at hv
    cases hv
    exact Nat.le_max_left _ _
  · have e : (u.storeItem p).survey = u.survey := by
      unfold Setup.storeItem
      simp only [hi, if_false, apply_ite Setup.survey, apply_dite Setup.survey, ite_self, dite_eq_ite]
    exact h v (e ▸ hv)

theorem handleSetup_advanced (x : Received) {s : State} (h : OdometryAdvanced s.odo s.odo s.ctrl) :
    OdometryAdvanced s.odo (handleSetup x s).odo (handleSetup x s).ctrl := by
  obtain ⟨⟨low, high, base, threshold, spacing, positive, number⟩, below, notLower⟩ := id h
  unfold handleSetup
  split
  next hc =>
    have hstored : OdometryAdvanced s.odo s.odo { s.ctrl with
        setup := s.ctrl.setup.storeItem x.payload
        marks := s.ctrl.marks ||| BitVec.ofNat 32 (2 ^ (byteAt x.payload 0 - 1)) } :=
      ⟨⟨low, high, base, threshold, fun hr => by simp [hc.1, Station.surveys] at hr, storeItem_spacing positive, number⟩,
        below, notLower⟩
    unfold storeSetup; dsimp only
    split <;> exact hstored
  next => exact (keptByBlocks_odometryAdvanced s.odo).rcd _ _ h

theorem handleRestart_advanced (o₀ : Odometry) (x : Received) {s : State} (h : OdometryAdvanced o₀ s.odo s.ctrl) :
    OdometryAdvanced o₀ (handleRestart x s).odo (handleRestart x s).ctrl :=
  kept_handleRestart_of_blocks (keptByBlocks_odometryAdvanced o₀)
    (.of_none rfl (h.range.dropped rfl rfl rfl rfl rfl (Nat.zero_le _))) fun _ ht => ht

theorem keptByHalt_odometryAdvanced (o₀ : Odometry) : KeptByHalt fun s => OdometryAdvanced o₀ s.odo s.ctrl := by
  rintro s ⟨⟨low, high, base, threshold, spacing, positive, number⟩, below, notLower⟩ hr
  have hs : s.ctrl.station.surveys = true := by rw [hr]; rfl
  exact ⟨⟨low, high, base.trans hs, threshold.trans hs, fun _ => spacing hs, positive, number⟩, below, notLower⟩

theorem handleClear_advanced (x : Received) {s : State} (h : OdometryAdvanced s.odo s.odo s.ctrl) :
    OdometryAdvanced s.odo (handleClear x s).odo (handleClear x s).ctrl := by
  rw [handleClear, State.followAttention_odo, State.followAttention_ctrl]
  exact h

/-- The handler keeps sound odometry when the handling of the telegram does. -/
theorem takeOldest_advanced {mine : Received → Bool} {act : Received → State → State} {s : State}
    (hact : ∀ x (u : State), OdometryAdvanced u.odo u.odo u.ctrl → OdometryAdvanced u.odo (act x u).odo (act x u).ctrl)
    (h : OdometryAdvanced s.odo s.odo s.ctrl) :
    OdometryAdvanced s.odo (takeOldest mine act s).odo (takeOldest mine act s).ctrl := by
  obtain e | ⟨x, rest, -, -, e | ⟨-, e⟩ | ⟨-, -, e⟩⟩ := takeOldest_cases s mine act <;> rw [e]
  · exact h
  · exact h
  · exact (keptByBlocks_odometryAdvanced s.odo).rcd _ _ h
  · exact hact x (s.onLine fun l => { l with queue := rest }) h

theorem afterReset_advanced (o₀ : Odometry) (straps : BitVec 4) (pair : Phase) (s : State) :
    OdometryAdvanced o₀ (afterReset straps pair s).odo (afterReset straps pair s).ctrl := by
  refine .of_none rfl ?_
  have hu : (afterReset straps pair s).ctrl.setup.survey = none := rfl
  refine ⟨?_, ?_, rfl, rfl, fun hr => ?_, fun v hv => ?_, Nat.zero_le _⟩
  · change (-2147483648 : Int) ≤ 0; omega
  · change (0 : Int) ≤ 2147483647; omega
  · exact absurd hr Bool.false_ne_true
  · simp [hu] at hv

/-- Every command keeps sound odometry and lowers no T_next. -/
theorem exec_advanced {c : Instr} {s t : State} (h : OdometryAdvanced s.odo s.odo s.ctrl) (he : exec c s = .next t) :
    OdometryAdvanced s.odo t.odo t.ctrl := by
  have K := keptByBlocks_odometryAdvanced s.odo
  have E : ∀ {f : State → State}, live f s = .next t → OdometryAdvanced s.odo (f s).odo (f s).ctrl →
      OdometryAdvanced s.odo t.odo t.ctrl :=
    fun e hf => live_next (P := fun t => OdometryAdvanced s.odo t.odo t.ctrl) s e h fun _ => hf
  by_cases hb : Instr.ofBlocks c = true
  · exact kept_blockCommand K hb h he
  cases c <;> simp only [exec] at he
  case powerOrPinReset straps pair => cases he; exact afterReset_advanced _ _ _ _
  case resetAsserted => cases he; exact h
  case phaseTransition pair => exact E he (pairSampled_advanced pair h)
  case localStop => exact E he (kept_localStopFalls_of_blocks K (keptByHalt_odometryAdvanced _) h)
  case breakDetected => exact E he (kept_breakSeen_of_blocks K (keptByHalt_odometryAdvanced _) h)
  case setup => exact E he (takeOldest_advanced (fun x _ => handleSetup_advanced x) h)
  case start => exact E he (takeOldest_advanced (fun x _ => handleStart_advanced x) h)
  case restart => exact E he (takeOldest_advanced (fun x _ => handleRestart_advanced _ x) h)
  case clear => exact E he (takeOldest_advanced (fun x _ => handleClear_advanced x) h)
  all_goals exact absurd rfl hb

/-- Settles O56: each command keeps sound odometry and lowers no T_next, and a step is a command or idles. -/
theorem odometryKept : Obligations.OdometryKept := by
  have key : ∀ s t : State, OdometrySound s → step s = .next t → OdometryAdvanced s.odo t.odo t.ctrl := by
    intro s t h e
    have h' := (odometrySound_iff s).1 h
    cases hp : s.pending with
    | nil => rw [step, hp] at e; cases e; exact h'
    | cons c rest => rw [step, hp] at e; exact exec_advanced (s := { s with pending := rest }) h' e
  exact ⟨fun s t h e => (key s t h e).sound, fun s t v w h e hv hw => (key s t h e).notLower v w hv hw⟩

end Sys2Proof.Machine

/-! FAULT holds nothing: what each operation leaves of a station in FAULT, and of one that it moves there. An operation that begins
outside FAULT can break nothing but by what it does after recording a FATAL kind; one that begins in FAULT meets an empty store, an
idle sweep, an empty watch unit and group A alone. -/

namespace Sys2Proof.Machine

/-! ### The blocks in FAULT -/

/-- The store holds no record, and no drain is pending. -/
def Store.HoldsNothing (st : Store) : Prop := st.records = [] ∧ st.drainPending = false

/-- Groups B and C are empty, and only group A transmits. -/
def Line.OnlyGroupA (l : Line) : Prop := l.groupB = [] ∧ l.groupC = [] ∧ ∀ t ∈ l.tx, t.group = .a

/-- The base and T_next are dropped. -/
def Odometry.Dropped (o : Odometry) : Prop := o.base = none ∧ o.nextThreshold = none

theorem faultHoldsNothing_iff (s : State) : FaultHoldsNothing s ↔ (s.ctrl.station = .fault →
    s.store.HoldsNothing ∧ s.seq.sweep = .idle ∧ s.line.OnlyGroupA ∧ s.watch = Watch.cleared ∧ s.odo.Dropped) := by
  constructor
  · rintro ⟨hr, hd, hs, hb, hc, hw, hba, ht, hx⟩ hf
    exact ⟨⟨hr hf, hd hf⟩, hs hf, ⟨hb hf, hc hf, hx hf⟩, hw hf, hba hf, ht hf⟩
  · intro h
    constructor <;> intro hf <;> obtain ⟨⟨hr, hd⟩, hs, ⟨hb, hc, hx⟩, hw, hba, ht⟩ := h hf <;> assumption

namespace FaultHoldsNothing
variable {s : State}

/-- Outside FAULT there is nothing to show. -/
theorem of_outside (h : s.ctrl.station ≠ .fault) : FaultHoldsNothing s := (faultHoldsNothing_iff s).2 fun hf => absurd hf h

theorem onConv (h : FaultHoldsNothing s) (f : Converter → Converter) : FaultHoldsNothing (s.onConv f) :=
  (faultHoldsNothing_iff _).2 ((faultHoldsNothing_iff s).1 h)

theorem onEcho (h : FaultHoldsNothing s) (f : EchoProcessor → EchoProcessor) : FaultHoldsNothing (s.onEcho f) :=
  (faultHoldsNothing_iff _).2 ((faultHoldsNothing_iff s).1 h)

theorem onRecorder (h : FaultHoldsNothing s) (f : Recorder → Recorder) : FaultHoldsNothing (s.onRecorder f) :=
  (faultHoldsNothing_iff _).2 ((faultHoldsNothing_iff s).1 h)

theorem followAttention (h : FaultHoldsNothing s) : FaultHoldsNothing s.followAttention :=
  (faultHoldsNothing_iff _).2 ((faultHoldsNothing_iff s).1 h)

theorem onSeq (h : FaultHoldsNothing s) {f : Sequencer → Sequencer} (hf : s.seq.sweep = .idle → (f s.seq).sweep = .idle) :
    FaultHoldsNothing (s.onSeq f) :=
  (faultHoldsNothing_iff _).2 fun hs => by
    obtain ⟨hst, hsw, hl, hw, ho⟩ := (faultHoldsNothing_iff s).1 h hs
    exact ⟨hst, hf hsw, hl, hw, ho⟩

theorem onStore (h : FaultHoldsNothing s) {f : Store → Store} (hf : s.store.HoldsNothing → (f s.store).HoldsNothing) :
    FaultHoldsNothing (s.onStore f) :=
  (faultHoldsNothing_iff _).2 fun hs => by
    obtain ⟨hst, hsw, hl, hw, ho⟩ := (faultHoldsNothing_iff s).1 h hs
    exact ⟨hf hst, hsw, hl, hw, ho⟩

theorem onWatch (h : FaultHoldsNothing s) {f : Watch → Watch} (hf : f Watch.cleared = Watch.cleared) :
    FaultHoldsNothing (s.onWatch f) :=
  (faultHoldsNothing_iff _).2 fun hs => by
    obtain ⟨hst, hsw, hl, hw, ho⟩ := (faultHoldsNothing_iff s).1 h hs
    exact ⟨hst, hsw, hl, (congrArg f hw).trans hf, ho⟩

theorem onLine (h : FaultHoldsNothing s) {f : Line → Line} (hf : s.line.OnlyGroupA → (f s.line).OnlyGroupA) :
    FaultHoldsNothing (s.onLine f) :=
  (faultHoldsNothing_iff _).2 fun hs => by
    obtain ⟨hst, hsw, hl, hw, ho⟩ := (faultHoldsNothing_iff s).1 h hs
    exact ⟨hst, hsw, hf hl, hw, ho⟩

theorem onOdo (h : FaultHoldsNothing s) {f : Odometry → Odometry} (hf : s.odo.Dropped → (f s.odo).Dropped) :
    FaultHoldsNothing (s.onOdo f) :=
  (faultHoldsNothing_iff _).2 fun hs => by
    obtain ⟨hst, hsw, hl, hw, ho⟩ := (faultHoldsNothing_iff s).1 h hs
    exact ⟨hst, hsw, hl, hw, hf ho⟩

/-- While a record is held, the station is not in FAULT. -/
theorem outside_of_record (h : FaultHoldsNothing s) {r : SectionRecord} {rest : List SectionRecord}
    (hr : s.store.records = r :: rest) : s.ctrl.station ≠ .fault := fun hf => by simp [h.records hf] at hr

/-- While a section is in flight, the station is not in FAULT. -/
theorem outside_of_sweep (h : FaultHoldsNothing s) (hs : s.seq.sweep ≠ .idle) : s.ctrl.station ≠ .fault :=
  fun hf => hs (h.sweep hf)

end FaultHoldsNothing

/-- The line interface at entry to FAULT is left with group A. -/
theorem Line.enterFault_onlyGroupA (l : Line) : l.enterFault.OnlyGroupA := by
  unfold Line.enterFault Line.OnlyGroupA
  dsimp only
  split
  · split
    next t ht ha => exact ⟨rfl, rfl, fun x hx => by simp_all⟩
    next => exact ⟨rfl, rfl, fun x hx => by simp at hx⟩
  next hn => exact ⟨rfl, rfl, fun x hx => by simp_all⟩

theorem holdsNothing_enterFault (s : State) : FaultHoldsNothing (enterFault s) :=
  (faultHoldsNothing_iff _).2 fun _ => ⟨⟨enterFault_records s, enterFault_drainPending s⟩,
    by rw [enterFault_seq, abortSection_sweep], by rw [enterFault_line]; exact s.line.enterFault_onlyGroupA, enterFault_watch s,
    by rw [enterFault_odo]; exact ⟨rfl, rfl⟩⟩

section
variable {s : State}

/-- A kind recorded leaves FAULT empty, and a station that it moves there. -/
theorem holdsNothing_record (h : FaultHoldsNothing s) (k : ErrKind) : FaultHoldsNothing (record k s) := by
  obtain ⟨-, e⟩ | ⟨-, e⟩ | ⟨-, e⟩ := record_cases s k <;> rw [e]
  · exact h.onRecorder _
  · exact (h.onRecorder _).followAttention
  · exact holdsNothing_enterFault _

/-- A later step of an event, taken in RUN alone. -/
theorem holdsNothing_whileRun {f : State → State} (h : FaultHoldsNothing s)
    (hf : s.ctrl.station ≠ .fault → FaultHoldsNothing (f s)) : FaultHoldsNothing (whileRun f s) :=
  whileRun_keeps (P := FaultHoldsNothing) s h fun hr => hf (by rw [hr]; decide)

/-! ### The transmit groups -/

theorem holdsNothing_setRx {x : Receiver} (h : FaultHoldsNothing s) : FaultHoldsNothing (setRx x s) := h.onLine id

theorem holdsNothing_offer (h : FaultHoldsNothing s) : FaultHoldsNothing (offer s) := by
  obtain e | ⟨g, t, rest, hg, -, -, e⟩ := offer_cases s <;> rw [e]
  · exact h
  · refine h.onLine fun ⟨hb, hc, _⟩ => ⟨hb, hc, fun x hx => ?_⟩
    obtain rfl : _ = x := Option.some.inj hx
    cases g
    case a => rfl
    case b => simp [hb] at hg
    case c => simp [hc] at hg

/-- A telegram may enter group A in FAULT; the others it enters outside FAULT alone. -/
theorem holdsNothing_enqueueA {t : Telegram} (h : FaultHoldsNothing s) : FaultHoldsNothing (enqueue .a t s) := by
  have hl : FaultHoldsNothing (s.onLine fun l => l.setGroup .a (l.group .a ++ [t])) := h.onLine id
  unfold enqueue; dsimp only; split
  · exact holdsNothing_offer hl
  · exact hl

theorem holdsNothing_enqueue {g : TxGroup} {t : Telegram} (hs : s.ctrl.station ≠ .fault) : FaultHoldsNothing (enqueue g t s) :=
  .of_outside (by rwa [enqueue_ctrl])

theorem holdsNothing_popGroup {g : TxGroup} (h : FaultHoldsNothing s) : FaultHoldsNothing (popGroup g s) := by
  refine h.onLine fun ⟨hb, hc, hx⟩ => ?_
  cases g
  case a => exact ⟨hb, hc, hx⟩
  case b => exact ⟨by simp [Line.setGroup, hb], hc, hx⟩
  case c => exact ⟨hb, by simp [Line.setGroup, hc], hx⟩

theorem holdsNothing_refillA (h : FaultHoldsNothing s) : FaultHoldsNothing (refillA s) := by
  obtain ⟨-, e⟩ | ⟨t, rest, ho, e⟩ := refillA_cases s <;> rw [e]
  · exact h
  · exact holdsNothing_enqueue fun hf => by simp [h.watch hf, Watch.cleared] at ho

theorem holdsNothing_abandonTx (h : FaultHoldsNothing s) : FaultHoldsNothing (abandonTx s) := by
  have hx : FaultHoldsNothing (s.onLine fun l => { l with tx := none }) :=
    h.onLine fun ⟨hb, hc, _⟩ => ⟨hb, hc, fun x hx => by simp at hx⟩
  unfold abandonTx; split
  · exact h
  · dsimp only; split
    · split
      · exact holdsNothing_refillA (holdsNothing_popGroup hx)
      · exact holdsNothing_popGroup hx
    · exact hx

theorem holdsNothing_produceA {t : Telegram} (hs : s.ctrl.station ≠ .fault) : FaultHoldsNothing (produceA t s) := by
  obtain ⟨-, e⟩ | ⟨-, -, e⟩ | ⟨-, e⟩ := produceA_cases s t <;> rw [e]
  · exact holdsNothing_enqueue hs
  · exact holdsNothing_record (.of_outside hs) _
  · exact .of_outside hs

/-! ### The section store -/

theorem holdsNothing_mapRecords {f : SectionRecord → SectionRecord} (h : FaultHoldsNothing s) :
    FaultHoldsNothing (s.onStore fun st => { st with records := st.records.map f }) :=
  h.onStore fun ⟨hr, hd⟩ => ⟨by simp [hr], hd⟩

theorem holdsNothing_completeDrain (hs : s.ctrl.station ≠ .fault) : FaultHoldsNothing (completeDrain s) := by
  have h : FaultHoldsNothing (match s.store.drainRequester with
      | some q => produceA ⟨q, .drained s.store.drainTarget⟩ s
      | none => s) := by
    split
    · exact holdsNothing_produceA hs
    · exact .of_outside hs
  unfold completeDrain
  exact h.onStore fun ⟨hr, _⟩ => ⟨hr, rfl⟩

theorem holdsNothing_startReport (h : FaultHoldsNothing s) : FaultHoldsNothing (startReport s) := by
  by_cases hf : s.ctrl.station = .fault
  · rw [startReport_idle s (by simp [h.records hf])]; exact h
  · exact .of_outside (by rwa [startReport_ctrl])

theorem holdsNothing_removeOldest (hs : s.ctrl.station ≠ .fault) : FaultHoldsNothing (removeOldest s) := by
  unfold removeOldest; split
  · apply holdsNothing_startReport; split
    · exact holdsNothing_completeDrain hs
    · exact .of_outside hs
  · exact .of_outside hs

/-- A part that enters group C leaves station control alone. -/
theorem enterPart_ctrl (s : State) : (enterPart s).ctrl = s.ctrl := by
  unfold enterPart
  split
  · split
    · rw [enqueue_ctrl]; rfl
    · rfl
  · rfl

theorem holdsNothing_reportPartDone {p : ReportPart} (h : FaultHoldsNothing s) : FaultHoldsNothing (reportPartDone p s) := by
  unfold reportPartDone; split
  next r rest hr =>
    have hs : (enterPart s).ctrl.station ≠ .fault := by rw [enterPart_ctrl]; exact h.outside_of_record hr
    split
    · dsimp only; split
      · exact holdsNothing_removeOldest hs
      · exact .of_outside hs
    · exact h
  next => exact h

theorem holdsNothing_windowTimerExpired {n : Nat} (h : FaultHoldsNothing s) : FaultHoldsNothing (windowTimerExpired n s) := by
  unfold windowTimerExpired; split
  · split
    · exact holdsNothing_startReport (holdsNothing_mapRecords h)
    · exact h
  · exact h

theorem holdsNothing_handleDrain {t : Received} (hs : s.ctrl.station ≠ .fault) : FaultHoldsNothing (handleDrain t s) := by
  unfold handleDrain; dsimp only; split
  · exact .of_outside hs
  · split
    · exact .of_outside hs
    · exact holdsNothing_completeDrain hs

/-! ### Edges -/

theorem holdsNothing_edgeToSide {sd : Side} {e : EdgeBody} (hs : s.ctrl.station ≠ .fault) :
    FaultHoldsNothing (edgeToSide sd e s) := by
  unfold edgeToSide sendEdge; split
  · split
    · exact holdsNothing_enqueue hs
    · exact holdsNothing_record (.of_outside hs) _
  · exact .of_outside hs

theorem holdsNothing_sendGapEdges {n : Nat} (h : FaultHoldsNothing s) : FaultHoldsNothing (sendGapEdges n s) := by
  unfold sendGapEdges
  exact holdsNothing_whileRun (holdsNothing_whileRun h holdsNothing_edgeToSide) holdsNothing_edgeToSide

theorem holdsNothing_sendEdges {r : SectionRecord} (h : FaultHoldsNothing s) : FaultHoldsNothing (sendEdges r s) := by
  unfold sendEdges
  exact holdsNothing_whileRun (holdsNothing_whileRun h holdsNothing_edgeToSide) holdsNothing_edgeToSide

theorem holdsNothing_handleEdge {t : Received} (hs : s.ctrl.station ≠ .fault) : FaultHoldsNothing (handleEdge t s) := by
  have hr : ∀ k, FaultHoldsNothing (record k s) := holdsNothing_record (.of_outside hs)
  unfold handleEdge edgeMeets
  split
  · exact hr _
  · split
    · exact hr _
    · split
      · exact hr _
      · split
        · split
          · exact .of_outside hs
          · exact hr _
        · split
          · exact holdsNothing_startReport (.of_outside hs)
          · exact hr _
        all_goals exact hr _

/-! ### The watch unit -/

theorem holdsNothing_endRecord {n : Nat} {r : LocalRecord} (hs : s.ctrl.station ≠ .fault) : FaultHoldsNothing (endRecord n r s) := by
  obtain ⟨-, e⟩ | ⟨id, -, -, e⟩ | ⟨id, -, -, e⟩ := endRecord_cases s n r <;> rw [e]
  · exact .of_outside hs
  · exact holdsNothing_record (.of_outside (s := s.onWatch _) hs) _
  · exact holdsNothing_produceA hs

theorem holdsNothing_confirmOrWait {n : Nat} {r : LocalRecord} (hs : s.ctrl.station ≠ .fault) :
    FaultHoldsNothing (confirmOrWait n r s) := by
  obtain e | ⟨id, c, -, e⟩ := confirmOrWait_cases s n r <;> rw [e]
  · exact .of_outside (s := putLocal r s) hs
  · exact holdsNothing_produceA hs

theorem holdsNothing_advanceMerged {n : Nat} {r : LocalRecord} (hs : s.ctrl.station ≠ .fault) :
    FaultHoldsNothing (advanceMerged n r s) := by
  unfold advanceMerged; split
  · exact holdsNothing_confirmOrWait hs
  all_goals exact .of_outside (s := putLocal _ s) hs

theorem holdsNothing_updateGroup {n : Nat} {g : SpanGroup} (hs : s.ctrl.station ≠ .fault) :
    FaultHoldsNothing (updateGroup n g s) := by
  unfold updateGroup; split
  · exact .of_outside hs
  · dsimp only
    refine holdsNothing_whileRun (kept_foldl _ _ (fun s x h => ?_) ?_) holdsNothing_advanceMerged
    · exact holdsNothing_whileRun h holdsNothing_endRecord
    · exact .of_outside hs

theorem holdsNothing_easeRecord {n c : Nat} {r : LocalRecord} (hs : s.ctrl.station ≠ .fault) :
    FaultHoldsNothing (easeRecord n c r s) := by
  unfold easeRecord; split
  · exact holdsNothing_endRecord hs
  · exact .of_outside hs

theorem holdsNothing_moveUnmatched {n : Nat} {bins : List BinRecord} {r : LocalRecord} (hs : s.ctrl.station ≠ .fault) :
    FaultHoldsNothing (moveUnmatched n bins r s) := by
  unfold moveUnmatched; dsimp only; split
  · exact .of_outside hs
  · split
    · exact .of_outside hs
    all_goals
      split
      · exact holdsNothing_easeRecord hs
      · exact .of_outside hs

theorem holdsNothing_createLocal {n : Nat} {sp : Span} (hs : s.ctrl.station ≠ .fault) : FaultHoldsNothing (createLocal n sp s) := by
  unfold createLocal; split
  · exact holdsNothing_record (.of_outside hs) _
  · exact holdsNothing_confirmOrWait hs

theorem holdsNothing_evaluateSection {n : Nat} {bins : List BinRecord} (h : FaultHoldsNothing s) :
    FaultHoldsNothing (evaluateSection n bins s) := by
  unfold evaluateSection; dsimp only
  refine holdsNothing_whileRun ?_ fun hs => .of_outside hs
  refine kept_foldl _ _ (fun s x h => holdsNothing_whileRun h holdsNothing_createLocal) ?_
  refine kept_foldl _ _ (fun s x h => holdsNothing_whileRun h holdsNothing_moveUnmatched) ?_
  exact kept_foldl _ _ (fun s x h => holdsNothing_whileRun h holdsNothing_updateGroup) h

theorem holdsNothing_notePeer {n : Nat} {a : Alert} (hs : s.ctrl.station ≠ .fault) : FaultHoldsNothing (notePeer n a s) := by
  unfold notePeer; dsimp only; split
  · exact .of_outside hs
  · split
    · exact .of_outside hs
    · split
      · split
        · exact holdsNothing_record (.of_outside hs) _
        · exact .of_outside hs
      · exact .of_outside hs

theorem holdsNothing_handleRaise {t : Received} (hs : s.ctrl.station ≠ .fault) : FaultHoldsNothing (handleRaise t s) := by
  unfold handleRaise; dsimp only; split
  · exact .of_outside hs
  · exact (holdsNothing_notePeer hs).onWatch rfl

theorem holdsNothing_handleEnd {t : Received} (hs : s.ctrl.station ≠ .fault) : FaultHoldsNothing (handleEnd t s) := by
  unfold handleEnd; exact .of_outside hs

/-! ### The sweep -/

theorem holdsNothing_completeSweep (hs : s.ctrl.station ≠ .fault) : FaultHoldsNothing (completeSweep s) := by
  have hc : FaultHoldsNothing (closeSweep s) := .of_outside hs
  unfold completeSweep; dsimp only; split
  · exact hc
  next r _ =>
    have hh : FaultHoldsNothing ((closeSweep s).onSweeping fun r => { r with state := .held }) := .of_outside hs
    have he := holdsNothing_mapRecords (f := fun x => if x.number = r.number then SectionRecord.applyHeldEdges
      (sendEdges r ((closeSweep s).onSweeping fun r => { r with state := .held })).ctrl.setup
      (sendEdges r ((closeSweep s).onSweeping fun r => { r with state := .held })).ctrl.ownNumber.toNat x else x)
      (holdsNothing_sendEdges (r := r) hh)
    exact holdsNothing_startReport (holdsNothing_mapRecords
      (holdsNothing_whileRun he fun _ => holdsNothing_evaluateSection he))

theorem holdsNothing_startGroup {k : Nat} (hs : s.ctrl.station ≠ .fault) : FaultHoldsNothing (startGroup k s) := by
  unfold startGroup; split
  · exact holdsNothing_completeSweep hs
  · exact .of_outside hs

theorem holdsNothing_startSweep (hs : s.ctrl.station ≠ .fault) : FaultHoldsNothing (startSweep s) := by
  unfold startSweep; dsimp only; split
  · exact holdsNothing_startGroup hs
  · exact .of_outside hs

theorem holdsNothing_gapExpired (h : FaultHoldsNothing s) : FaultHoldsNothing (gapExpired s) := by
  unfold gapExpired; split
  next hk => exact holdsNothing_startGroup (h.outside_of_sweep (by rw [hk]; nofun))
  all_goals exact h

/-- The close of a group leaves station control alone. -/
theorem closeGroup_ctrl (s : State) : (closeGroup s).2.ctrl = s.ctrl := by
  have place : ∀ (ps : List PointRecord) (t : State), (ps.foldl (fun s p => placePoint p s) t).ctrl = t.ctrl := fun ps t =>
    kept_foldl (Q := fun x => x.ctrl = t.ctrl) ps _ (fun x p hx => by
      unfold placePoint; dsimp only; split <;> exact hx) rfl
  have test : ∀ v g o (es : List EchoRecord) (a : List ValidEcho × State), (es.foldl (testHeld v g o) a).2.ctrl = a.2.ctrl := by
    intro v g o es
    induction es with
    | nil => intro a; rfl
    | cons e es ih => intro a; rw [List.foldl_cons, ih]; unfold testHeld; split <;> rfl
  have dispose : ∀ v f g o m (t : State), (disposeMember v f g o m t).2.ctrl = t.ctrl := by
    intro v f g o m t
    unfold disposeMember; dsimp only; split
    · exact test v g o m.held ([], t)
    · exact (place _ _).trans (test v g o m.held ([], t))
  unfold closeGroup; split
  next ms g v w table _ _ _ _ _ =>
    have all : ∀ (l : List Member) (a : List HandBack × State), (l.foldl
        (fun (acc : List HandBack × State) m =>
          let offset := if h : m.element < 64 then table[m.element].offset else 0
          let d := disposeMember v w.forwardSuspect g offset m acc.2
          (acc.1 ++ [d.1], d.2)) a).2.ctrl = a.2.ctrl := by
      intro l
      induction l with
      | nil => intro a; rfl
      | cons m l ih => intro a; rw [List.foldl_cons, ih]; exact dispose _ _ _ _ _ _
    exact all ms ([], s)
  next => rfl

theorem adaptGroup_ctrl (backs : List HandBack) (s : State) : (adaptGroup backs s).ctrl = s.ctrl := by
  unfold adaptGroup; split
  · split
    · rfl
    · exact kept_foldl (Q := fun x => x.ctrl = s.ctrl) backs _ (fun _ _ hx => hx) rfl
  · rfl

theorem holdsNothing_dwellExpired (h : FaultHoldsNothing s) : FaultHoldsNothing (dwellExpired s) := by
  unfold dwellExpired; split
  next hk =>
    refine .of_outside ?_
    rw [State.onSeq_ctrl, adaptGroup_ctrl, closeGroup_ctrl]
    exact h.outside_of_sweep (by rw [hk]; nofun)
  all_goals exact h

theorem holdsNothing_foreignEcho (h : FaultHoldsNothing s) : FaultHoldsNothing (foreignEcho s) := by
  unfold foreignEcho; dsimp only; split
  · exact h
  · split
    · exact holdsNothing_record (holdsNothing_mapRecords h) _
    · exact holdsNothing_mapRecords h

theorem holdsNothing_echoArrives {e : EchoRecord} (h : FaultHoldsNothing s) : FaultHoldsNothing (echoArrives e s) := by
  unfold echoArrives acceptEcho; split
  · exact h
  · exact holdsNothing_foreignEcho h
  · exact holdsNothing_foreignEcho h
  · split
    · exact h
    · split
      · exact holdsNothing_foreignEcho h
      · split
        · exact holdsNothing_foreignEcho (h.onEcho _)
        · exact h.onEcho _

/-! ### The converter -/

theorem holdsNothing_settleChannel {c : Channel} (h : FaultHoldsNothing s) : FaultHoldsNothing (settleChannel c s) := by
  unfold settleChannel; split
  · exact h.onConv _
  · exact h

theorem holdsNothing_cantCompleted {code : BitVec 12} (h : FaultHoldsNothing s) : FaultHoldsNothing (cantCompleted code s) := by
  unfold cantCompleted; split
  · exact h
  next a _ =>
    have hc : FaultHoldsNothing (takeCant a code.toNat s) := by
      unfold takeCant; dsimp only; split
      · exact h.onConv _
      · exact holdsNothing_record (h.onConv _) _
    split
    · apply holdsNothing_settleChannel; split
      next hw => exact holdsNothing_startSweep (hc.outside_of_sweep (by rw [hw.2]; nofun))
      next => exact hc
    · exact h

theorem holdsNothing_supplyCompleted {code : BitVec 12} (h : FaultHoldsNothing s) : FaultHoldsNothing (supplyCompleted code s) := by
  unfold supplyCompleted takeSupply; split
  · exact h
  · split
    · apply holdsNothing_settleChannel; split
      · split
        · exact h.onConv _
        · exact h
      · split
        · exact holdsNothing_record (h.onConv _) _
        · exact h
    · exact h

theorem holdsNothing_tempCompleted {code : BitVec 12} (h : FaultHoldsNothing s) : FaultHoldsNothing (tempCompleted code s) := by
  unfold tempCompleted takeTemp completeScan; split
  · exact h
  · split
    · apply FaultHoldsNothing.onConv; split
      · split
        · exact h.onConv _
        · exact h
      · split
        · exact holdsNothing_record (h.onConv _) _
        · exact h
    · exact h

theorem holdsNothing_settleExpired (h : FaultHoldsNothing s) : FaultHoldsNothing (settleExpired s) := by
  unfold settleExpired; split
  · exact h.onConv _
  all_goals exact h

theorem holdsNothing_intervalExpired (h : FaultHoldsNothing s) : FaultHoldsNothing (intervalExpired s) := by
  unfold intervalExpired; split
  · dsimp only; split
    · exact holdsNothing_settleChannel ((h.onConv _).onConv _)
    · exact h.onConv _
  · exact h

/-! ### The odometry unit -/

theorem holdsNothing_triggerSection {n : Nat} (hs : s.ctrl.station ≠ .fault) : FaultHoldsNothing (triggerSection n s) := by
  have hw : (countWindows s).ctrl.station ≠ .fault := by rwa [countWindows_ctrl]
  have skip : ∀ {t reason}, FaultHoldsNothing t → FaultHoldsNothing (skipSection n reason t) := fun ht =>
    holdsNothing_sendGapEdges (ht.onStore id)
  unfold triggerSection handleTrigger
  split
  · exact skip (.of_outside hw)
  · split
    · exact skip (.of_outside hw)
    · split
      · exact skip (holdsNothing_record (.of_outside hw) _)
      · split
        · exact skip (holdsNothing_record (.of_outside hw) _)
        · refine .of_outside ?_
          unfold startSection beginSectionScan settleChannel
          dsimp only; split <;> exact hw

theorem holdsNothing_thresholdCrossed (hs : s.ctrl.station ≠ .fault) : FaultHoldsNothing (thresholdCrossed s) := by
  have advance : ∀ {t : State} {v : Survey}, FaultHoldsNothing t →
      FaultHoldsNothing (t.onOdo fun o => { o with nextThreshold := o.nextThreshold.map (· + (v.spacing : Int)) }) := fun ht =>
    ht.onOdo fun ⟨hb, hn⟩ => ⟨hb, by simp [hn]⟩
  unfold thresholdCrossed advanceNumber; split
  · exact .of_outside hs
  · dsimp only; split
    · exact .of_outside (by rwa [countWindows_ctrl])
    · split
      · exact holdsNothing_record ((advance (holdsNothing_triggerSection hs)).onOdo id) _
      · exact (advance (holdsNothing_triggerSection hs)).onOdo id

theorem holdsNothing_pairSampled {pair : Phase} (h : FaultHoldsNothing s) : FaultHoldsNothing (pairSampled pair s) := by
  unfold pairSampled; dsimp only; split
  · exact h
  · refine FaultHoldsNothing.onOdo ?_ id
    split
    · exact holdsNothing_record h _
    · split
      · split
        · unfold stepForward; dsimp only; split
          · exact holdsNothing_record h _
          · split
            next hc => exact holdsNothing_thresholdCrossed (by obtain ⟨hr | hr, -⟩ := hc <;> rw [hr] <;> decide)
            next => exact h.onOdo id
        · unfold stepBackward; split
          · exact holdsNothing_record h _
          · exact h.onOdo id
      · exact h

/-! ### The line interface -/

theorem holdsNothing_lineIdles (h : FaultHoldsNothing s) : FaultHoldsNothing (lineIdles s) := by
  unfold lineIdles; split
  · exact holdsNothing_offer (h.onLine id)
  · exact h

theorem holdsNothing_headerEnds {a : Header} (h : FaultHoldsNothing s) : FaultHoldsNothing (headerEnds a s) := by
  unfold headerEnds; split
  · split
    · exact h
    · split
      · exact holdsNothing_record (holdsNothing_setRx h) _
      · split <;> exact holdsNothing_setRx h
  all_goals exact h

theorem holdsNothing_telegramEnds {p : List Byte} {c : BitVec 16} (h : FaultHoldsNothing s) :
    FaultHoldsNothing (telegramEnds p c s) := by
  unfold telegramEnds; split
  · split
    · dsimp only; split
      · exact holdsNothing_setRx h
      · split
        · exact holdsNothing_record (holdsNothing_setRx h) _
        · split
          · exact holdsNothing_record (holdsNothing_setRx h) _
          · exact (holdsNothing_setRx h).onLine id
    · exact h
  all_goals exact h

theorem holdsNothing_quietSpellSeen {d : Bool} {n : Nat} (h : FaultHoldsNothing s) : FaultHoldsNothing (quietSpellSeen d n s) := by
  unfold quietSpellSeen; split
  · split
    · exact holdsNothing_record (holdsNothing_setRx h) _
    · exact h
  all_goals exact h

theorem holdsNothing_contentionIsLost (h : FaultHoldsNothing s) : FaultHoldsNothing (contentionIsLost s) := by
  unfold contentionIsLost beginReception; split
  · apply holdsNothing_abandonTx; split
    · exact h
    all_goals exact holdsNothing_setRx h
  · exact h

theorem holdsNothing_readbackMismatches (h : FaultHoldsNothing s) : FaultHoldsNothing (readbackMismatches s) := by
  unfold readbackMismatches; split
  · exact (holdsNothing_abandonTx (holdsNothing_setRx h)).onLine id
  · exact h

theorem holdsNothing_readbackTransitionSeen (h : FaultHoldsNothing s) : FaultHoldsNothing (readbackTransitionSeen s) := by
  unfold readbackTransitionSeen; split
  · exact holdsNothing_record (h.onLine id) _
  · exact h

theorem holdsNothing_transmissionCompletes (h : FaultHoldsNothing s) : FaultHoldsNothing (transmissionCompletes s) := by
  unfold transmissionCompletes; split
  · exact h
  next t _ =>
    have hp : FaultHoldsNothing (setRx .idleWait (popGroup t.group (s.onLine fun l => { l with tx := none }))) :=
      holdsNothing_setRx (holdsNothing_popGroup (h.onLine fun ⟨hb, hc, _⟩ => ⟨hb, hc, fun x hx => by simp at hx⟩))
    dsimp only; split
    · exact holdsNothing_refillA hp
    · split
      · exact hp
      · exact holdsNothing_reportPartDone hp
    · exact hp

theorem holdsNothing_firstTransitionSeen (h : FaultHoldsNothing s) : FaultHoldsNothing (firstTransitionSeen s) := by
  unfold firstTransitionSeen beginReception; split
  · exact holdsNothing_setRx h
  · exact h

/-! ### Station control -/

theorem holdsNothing_enterHalted (s : State) : FaultHoldsNothing (enterHalted s) := by
  have ha : FaultHoldsNothing (abortForHalt (s.onCtrl fun c => { c with station := .halted })) := by
    unfold abortForHalt; dsimp only; split
    · exact holdsNothing_completeDrain (by rw [abortSection_ctrl]; nofun)
    · exact .of_outside (by rw [abortSection_ctrl]; nofun)
  unfold enterHalted closeHeld; dsimp only
  exact (holdsNothing_startReport (holdsNothing_mapRecords ha)).onWatch rfl

theorem holdsNothing_localStopFalls (h : FaultHoldsNothing s) : FaultHoldsNothing (localStopFalls s) := by
  unfold localStopFalls; split
  · exact holdsNothing_enterHalted _
  · exact h

theorem holdsNothing_breakSeen (h : FaultHoldsNothing s) : FaultHoldsNothing (breakSeen s) := by
  unfold breakSeen; dsimp only; split
  · exact holdsNothing_enterHalted _
  · exact (holdsNothing_abandonTx (holdsNothing_setRx h)).onLine id

theorem holdsNothing_startOdometry (hs : s.ctrl.station ≠ .fault) : FaultHoldsNothing (startOdometry s) := by
  unfold startOdometry; dsimp only
  refine (holdsNothing_triggerSection (s := s.onOdo _) hs).onOdo ?_
  rintro ⟨hb, -⟩
  exact ⟨hb, by simp [hb]⟩

theorem holdsNothing_handleStart {t : Received} (h : FaultHoldsNothing s) : FaultHoldsNothing (handleStart t s) := by
  unfold handleStart; split
  next hc =>
    split
    · exact holdsNothing_record (.of_outside (by simp [hc])) _
    · rw [enterRun_eq]; exact holdsNothing_startOdometry nofun
  · exact .of_outside nofun
  all_goals exact h

theorem holdsNothing_handleSetup {t : Received} (h : FaultHoldsNothing s) : FaultHoldsNothing (handleSetup t s) := by
  unfold handleSetup; split
  next hc =>
    have hs : s.ctrl.station ≠ .fault := by rw [hc.1]; decide
    unfold storeSetup; dsimp only; split <;> exact .of_outside hs
  · exact holdsNothing_record h _

theorem handleRestart_station (t : Received) (s : State) : (handleRestart t s).ctrl.station = .config := by
  unfold handleRestart; dsimp only; split <;> rfl

theorem holdsNothing_handleStatusReq {t : Received} (h : FaultHoldsNothing s) : FaultHoldsNothing (handleStatusReq t s) := by
  unfold handleStatusReq; split
  · exact holdsNothing_enqueueA h
  · exact holdsNothing_record h _

theorem holdsNothing_assertReset (h : FaultHoldsNothing s) : FaultHoldsNothing (assertReset s) := by
  have hseq := h.onSeq (f := fun q => { q with rows := 0, cols := 0 }) id
  have hline := hseq.onLine (f := fun l => { l with tx := none, breakSend := false })
    fun ⟨hb, hc, _⟩ => ⟨hb, hc, fun x hx => by simp at hx⟩
  have key := (faultHoldsNothing_iff _).1 (hline.onRecorder fun r => { r with attention := false })
  exact (faultHoldsNothing_iff _).2 key

/-! ### The handler and the commands -/

theorem holdsNothing_takeOldest {mine : Received → Bool} {act : Received → State → State}
    (hact : ∀ t u, mine t = true → u.ctrl.station.accepts t.kind = true → FaultHoldsNothing u → FaultHoldsNothing (act t u))
    (h : FaultHoldsNothing s) : FaultHoldsNothing (takeOldest mine act s) := by
  obtain e | ⟨t, rest, -, hm, e | ⟨-, e⟩ | ⟨ha, -, e⟩⟩ := takeOldest_cases s mine act <;> rw [e]
  · exact h
  · exact h.onLine id
  · exact holdsNothing_record (h.onLine id) _
  · exact hact t _ hm ha (h.onLine id)

/-- DRAIN, EDGE and ALERT telegrams are not accepted in FAULT. -/
theorem outside_of_accepts {x : Station} {k : Kind} (hk : k = .drain ∨ k = .edge ∨ k = .alert) (ha : x.accepts k = true) :
    x ≠ .fault := by
  rintro rfl
  obtain rfl | rfl | rfl := hk <;> exact absurd ha Bool.false_ne_true

theorem Received.kind_of_isKind {k : Kind} {t : Received} (h : Received.isKind k t = true) : t.kind = k := of_decide_eq_true h

theorem Received.kind_of_isAlert {b : Bool} {t : Received} (h : Received.isAlert b t = true) : t.kind = .alert := by
  unfold Received.isAlert at h
  exact of_decide_eq_true (Bool.and_eq_true_iff.1 h).1

/-- Every command keeps FAULT empty. -/
theorem holdsNothing_exec {c : Instr} {t : State} (h : FaultHoldsNothing s) (he : exec c s = .next t) : FaultHoldsNothing t := by
  have E : ∀ {f : State → State}, live f s = .next t → (FaultHoldsNothing s → FaultHoldsNothing (f s)) →
      FaultHoldsNothing t := fun e hf => live_next (P := FaultHoldsNothing) s e h fun _ => hf h
  cases c <;> simp only [exec] at he
  case powerOrPinReset => cases he; exact .of_outside nofun
  case resetAsserted => cases he; exact holdsNothing_assertReset h
  case phaseTransition => exact E he holdsNothing_pairSampled
  case localStop => exact E he holdsNothing_localStopFalls
  case breakSendEnd => exact E he fun h => h.onLine id
  case breakDetected => exact E he holdsNothing_breakSeen
  case lineIdle => exact E he holdsNothing_lineIdles
  case headerEnd => exact E he holdsNothing_headerEnds
  case checkSequenceEnd => exact E he holdsNothing_telegramEnds
  case quietSpell => exact E he holdsNothing_quietSpellSeen
  case contentionLost => exact E he holdsNothing_contentionIsLost
  case readbackMismatch => exact E he holdsNothing_readbackMismatches
  case readbackTransition => exact E he holdsNothing_readbackTransitionSeen
  case transmissionCompletion => exact E he holdsNothing_transmissionCompletes
  case setup => exact E he (holdsNothing_takeOldest fun _ _ _ _ => holdsNothing_handleSetup)
  case start => exact E he (holdsNothing_takeOldest fun _ _ _ _ => holdsNothing_handleStart)
  case restart => exact E he (holdsNothing_takeOldest fun x u _ _ _ => .of_outside (by rw [handleRestart_station]; decide))
  case edge => exact E he (holdsNothing_takeOldest fun _ _ hm ha _ =>
      holdsNothing_handleEdge (outside_of_accepts (.inr (.inl (Received.kind_of_isKind hm))) ha))
  case alertRaise => exact E he (holdsNothing_takeOldest fun _ _ hm ha _ =>
      holdsNothing_handleRaise (outside_of_accepts (.inr (.inr (Received.kind_of_isAlert hm))) ha))
  case alertEnd => exact E he (holdsNothing_takeOldest fun _ _ hm ha _ =>
      holdsNothing_handleEnd (outside_of_accepts (.inr (.inr (Received.kind_of_isAlert hm))) ha))
  case statusReq => exact E he (holdsNothing_takeOldest fun _ _ _ _ => holdsNothing_handleStatusReq)
  case clear => exact E he (holdsNothing_takeOldest fun _ _ _ _ h => (h.onRecorder _).followAttention)
  case drain => exact E he (holdsNothing_takeOldest fun _ _ hm ha _ =>
      holdsNothing_handleDrain (outside_of_accepts (.inl (Received.kind_of_isKind hm)) ha))
  case settleExpiry => exact E he holdsNothing_settleExpired
  case cantCompletion => exact E he holdsNothing_cantCompleted
  case supplyCompletion => exact E he holdsNothing_supplyCompleted
  case tempCompletion => exact E he holdsNothing_tempCompleted
  case scanIntervalExpiry => exact E he holdsNothing_intervalExpired
  case dwellExpiry => exact E he holdsNothing_dwellExpired
  case gapExpiry => exact E he holdsNothing_gapExpired
  case echoRecord => exact E he holdsNothing_echoArrives
  case windowTimerExpiry => exact E he holdsNothing_windowTimerExpired
  case firstTransition => exact E he holdsNothing_firstTransitionSeen
end

/-- Settles O59: each command keeps FAULT empty, and waiting commands do not matter to it. -/
theorem faultHoldsNothingKept : Obligations.FaultHoldsNothingKept :=
  keptByEveryStep_of_exec (fun s _ h => (faultHoldsNothing_iff _).2 ((faultHoldsNothing_iff s).1 h))
    fun _ _ _ h he => holdsNothing_exec h he

end Sys2Proof.Machine

/-! The odometry unit: the phase transitions, and the crossings with what their triggers do. -/

namespace Sys2Proof.Machine

/-! ### Phase transitions -/

section
variable {s : State}

theorem exec_phaseTransition (pair : Phase) (h : s.resetAsserted = false) :
    exec (.phaseTransition pair) s = .next (pairSampled pair s) := live_eq s (pairSampled pair) h

theorem pairSampled_same {pair : Phase} (h : pair = s.odo.phase) : pairSampled pair s = s := if_pos h

theorem pairSampled_illegal {pair : Phase} (ha : pair.a ≠ s.odo.phase.a) (hb : pair.b ≠ s.odo.phase.b) :
    pairSampled pair s = (record .odometer s).onOdo fun o => { o with phase := pair } := by
  unfold pairSampled; dsimp only
  rw [if_neg fun e => ha (congrArg Phase.a e), if_pos ⟨ha.symm, hb.symm⟩]

/-- A transition of one phase takes its step if it is counted; the phase state takes the new pair. -/
theorem pairSampled_legal {pair : Phase} (h : s.odo.phase.a = pair.a ↔ s.odo.phase.b ≠ pair.b) :
    pairSampled pair s =
      (if countedStep s.ctrl.setup.countMode s.odo.phase pair then
        if forwardStep s.odo.phase pair then stepForward s else stepBackward s
       else s).onOdo fun o => { o with phase := pair } := by
  unfold pairSampled; dsimp only
  rw [if_neg (show pair ≠ s.odo.phase from fun e => by simp [e] at h), if_neg fun hb => hb.1 (h.2 hb.2)]

/-- The crossing of a threshold leaves P where the step has put it. -/
theorem thresholdCrossed_pos (s : State) : (thresholdCrossed s).odo.pos = s.odo.pos := by
  unfold thresholdCrossed advanceNumber
  split
  · rfl
  · dsimp only; split
    · simp
    · split <;> simp

theorem stepForward_pos (h : s.odo.pos ≤ 2147483647) : (stepForward s).odo.pos = min (s.odo.pos + 1) 2147483647 := by
  by_cases hp : s.odo.pos = 2147483647
  · rw [stepForward_limit s hp, record_pos]; omega
  · have hlt : s.odo.pos < 2147483647 := by omega
    have hstep : (stepForward s).odo.pos = s.odo.pos + 1 := by
      by_cases hc : (s.ctrl.station = .run ∨ s.ctrl.station = .halted) ∧ s.odo.nextThreshold = some (s.odo.pos + 1)
      · rw [stepForward_crosses s hlt hc.1 hc.2, thresholdCrossed_pos]; rfl
      · rw [stepForward_eq s hlt hc]; rfl
    omega

theorem stepBackward_pos (h : -2147483648 ≤ s.odo.pos) : (stepBackward s).odo.pos = max (-2147483648) (s.odo.pos - 1) := by
  by_cases hp : s.odo.pos = -2147483648
  · rw [stepBackward_limit s hp, record_pos]; omega
  · rw [stepBackward_eq s (by omega), State.onOdo_odo]; dsimp only; omega
end

/-- Every row of R2's table changes one phase, in the row's direction, and is counted in the row's count modes. -/
theorem legalRow {old new : Phase} {forward x1 x2 : Bool}
    (h : (old, new, forward, x1, x2) ∈
      ([(⟨false, false⟩, ⟨true, false⟩, true, true, true), (⟨true, false⟩, ⟨true, true⟩, true, false, false),
        (⟨true, true⟩, ⟨false, true⟩, true, false, true), (⟨false, true⟩, ⟨false, false⟩, true, false, false),
        (⟨false, false⟩, ⟨false, true⟩, false, false, false), (⟨false, true⟩, ⟨true, true⟩, false, false, true),
        (⟨true, true⟩, ⟨true, false⟩, false, false, false), (⟨true, false⟩, ⟨false, false⟩, false, true, true)]
        : List (Phase × Phase × Bool × Bool × Bool))) :
    (old.a = new.a ↔ old.b ≠ new.b) ∧ forwardStep old new = forward
      ∧ ∀ m : CountMode, countedStep m old new = match m with
        | .x1 => x1
        | .x2 => x2
        | .x4 => true := by
  simp only [List.mem_cons, Prod.mk.injEq, List.not_mem_nil, or_false] at h
  obtain ⟨rfl, rfl, rfl, rfl, rfl⟩ | ⟨rfl, rfl, rfl, rfl, rfl⟩ | ⟨rfl, rfl, rfl, rfl, rfl⟩ | ⟨rfl, rfl, rfl, rfl, rfl⟩
    | ⟨rfl, rfl, rfl, rfl, rfl⟩ | ⟨rfl, rfl, rfl, rfl, rfl⟩ | ⟨rfl, rfl, rfl, rfl, rfl⟩ | ⟨rfl, rfl, rfl, rfl, rfl⟩ := h
  all_goals exact ⟨by decide, rfl, fun m => by cases m <;> rfl⟩

/-- Settles O7: the row gives direction and counting, and a counted step moves P within its limits. -/
theorem legalTransitionsCounted : Obligations.LegalTransitionsCounted := by
  rintro old new forward x1 x2 s hrow hreset rfl hlow hhigh counted wanted
  obtain ⟨hlegal, hforward, hmode⟩ := legalRow hrow
  have hcounted : countedStep s.ctrl.setup.countMode s.odo.phase new = counted := hmode _
  have hsampled := pairSampled_legal hlegal
  rw [hcounted, hforward] at hsampled
  refine ⟨_, exec_phaseTransition new hreset, ?_, ?_, fun hlw hhw hcross => ?_⟩ <;> rw [hsampled]
  · rfl
  · rw [State.onOdo_odo]
    cases hc : counted <;> cases hf : forward <;> simp only [wanted, hc, hf, if_true, if_false, Bool.false_eq_true]
    · omega
    · omega
    · rw [stepBackward_pos hlow]; omega
    · rw [stepForward_pos hhigh]; omega
  · cases hc : counted <;> cases hf : forward <;>
      simp only [wanted, hc, hf, if_true, if_false, Bool.false_eq_true] at hlw hhw hcross ⊢
    · rfl
    · rfl
    · rw [stepBackward_eq s (by omega)]; rfl
    · rw [stepForward_eq s (by omega) fun hx => hcross trivial trivial ((surveys_iff _).2 hx.1) hx.2]; rfl

/-- Settles O8: an equal sample is no transition; an illegal one, and a step past a limit, are recorded. -/
theorem refusedTransitions : Obligations.RefusedTransitions := by
  intro pair s hreset
  rw [exec_phaseTransition pair hreset]
  refine ⟨fun h => by rw [pairSampled_same h], fun h => ⟨?_, record_pos s _⟩⟩
  obtain ⟨ha, hb⟩ | ⟨hone, hcounted, hlimit⟩ := h
  · rw [pairSampled_illegal ha hb]; rfl
  · have hlegal : s.odo.phase.a = pair.a ↔ s.odo.phase.b ≠ pair.b := by
      rw [eq_comm (a := s.odo.phase.a), ne_comm (a := s.odo.phase.b)]
      by_cases h : pair.a = s.odo.phase.a <;> simp_all
    rw [pairSampled_legal hlegal, hcounted, if_pos rfl]
    obtain ⟨hf, hp⟩ | ⟨hf, hp⟩ := hlimit
    · rw [hf, if_pos rfl, stepForward_limit s hp]; rfl
    · rw [hf, if_neg Bool.false_ne_true, stepBackward_limit s hp]; rfl

/-! ### Crossings -/

/-- T_next, where it is present, advanced by SPACING. -/
def Odometry.advance (v : Survey) (o : Odometry) : Odometry :=
  { o with nextThreshold := o.nextThreshold.map (· + (v.spacing : Int)) }

section
variable {s : State} {v : Survey}

theorem thresholdCrossed_limit (hv : s.ctrl.setup.survey = some v) (hm : s.odo.limitMark = true) :
    thresholdCrossed s = countWindows (s.onOdo (Odometry.advance v)) := by
  simp only [thresholdCrossed, hv, hm, if_true]; rfl

theorem thresholdCrossed_trigger (hv : s.ctrl.setup.survey = some v) (hm : s.odo.limitMark = false) :
    thresholdCrossed s =
      advanceNumber s.odo.nextSection ((triggerSection s.odo.nextSection s).onOdo (Odometry.advance v)) := by
  simp only [thresholdCrossed, hv, hm]; rfl

/-- A crossing is a counted step onto T_next: P moves, the threshold is crossed, the phase state takes the new pair. -/
theorem exec_crossing {pair : Phase} (hc : Crossing s pair v) : exec (.phaseTransition pair) s =
    .next ((thresholdCrossed (s.onOdo fun o => { o with pos := o.pos + 1 })).onOdo fun o => { o with phase := pair }) := by
  rw [exec_phaseTransition pair hc.live, pairSampled_legal hc.legal, hc.counted, hc.forward, if_pos rfl, if_pos rfl,
    stepForward_crosses s hc.room ((surveys_iff _).1 hc.surveys) hc.meets]

/-- A crossing whose trigger leaves the odometry unit alone gives what the trigger gives, with T_next and the next number moved on. -/
theorem exec_crossing_trigger {pair : Phase} (hc : Crossing s pair v) (hm : s.odo.limitMark = false)
    (hn : s.odo.nextSection < 16777215) {t : State} (ht : handleTrigger s.odo.nextSection s.atCrossing = t)
    (ho : t.odo = s.atCrossing.odo) : exec (.phaseTransition pair) s = .next { t with odo := s.odo.crossed pair v } := by
  have htrigger : triggerSection s.odo.nextSection (s.onOdo fun o => { o with pos := o.pos + 1 }) = t := ht
  have hodo : t.odo = { s.odo with pos := s.odo.pos + 1 } := ho.trans (countWindows_odo _)
  have hne : s.odo.nextSection ≠ Config.lastSection := Nat.ne_of_lt hn
  rw [exec_crossing hc, thresholdCrossed_trigger (s := s.onOdo fun o => { o with pos := o.pos + 1 }) hc.survey hm,
    State.onOdo_odo, htrigger, advanceNumber, if_neg hne]
  simp only [State.onOdo, Odometry.advance, Odometry.crossed, hodo, hc.meets, Option.map_some]

/-! ### The trigger tests -/

/-- A SWEEPING record is found exactly when there is one. -/
theorem Store.sweeping_isSome (st : Store) : st.sweeping.isSome = true ↔ ∃ r ∈ st.records, r.state = .sweeping := by
  simp [Store.sweeping, List.find?_isSome]

theorem not_exists_sweeping {rs : List SectionRecord} (h : ∀ r ∈ rs, r.state ≠ .sweeping) :
    ¬ ∃ r ∈ rs, r.state = .sweeping := fun ⟨r, hr, hs⟩ => h r hr hs

variable {n : Nat}

theorem handleTrigger_halted (h : s.ctrl.station = .halted) :
    handleTrigger n s = skipSection n .onlyHalt s := if_pos h

theorem handleTrigger_hot (hr : s.ctrl.station = .run) (ht : s.conv.overTemp = true) :
    handleTrigger n s = skipSection n .onlyHot s := by
  unfold handleTrigger; rw [if_neg (by rw [hr]; decide), if_pos ht]

theorem handleTrigger_busy (hr : s.ctrl.station = .run) (ht : s.conv.overTemp = false)
    (hs : ∃ r ∈ s.store.records, r.state = .sweeping) :
    handleTrigger n s = skipSection n .onlyBusy (record .sweepBusy s) := by
  unfold handleTrigger; rw [if_neg (by rw [hr]; decide), if_neg (by simp [ht]), if_pos ((Store.sweeping_isSome _).2 hs)]

theorem handleTrigger_full (hr : s.ctrl.station = .run) (ht : s.conv.overTemp = false)
    (hs : ∀ r ∈ s.store.records, r.state ≠ .sweeping) (hl : 8 ≤ s.store.records.length) :
    handleTrigger n s = skipSection n .onlyStoreFull (record .storeFull s) := by
  unfold handleTrigger
  rw [if_neg (by rw [hr]; decide), if_neg (by simp [ht]), if_neg fun h => not_exists_sweeping hs ((Store.sweeping_isSome _).1 h),
    if_pos (show Config.storeCapacity ≤ _ from hl)]

theorem handleTrigger_start (hr : s.ctrl.station = .run) (ht : s.conv.overTemp = false)
    (hs : ∀ r ∈ s.store.records, r.state ≠ .sweeping) (hl : s.store.records.length < 8) :
    handleTrigger n s = startSection n s := by
  unfold handleTrigger
  rw [if_neg (by rw [hr]; decide), if_neg (by simp [ht]), if_neg fun h => not_exists_sweeping hs ((Store.sweeping_isSome _).1 h),
    if_neg (show ¬ Config.storeCapacity ≤ _ from Nat.not_le.2 hl)]

/-- A section started: its record takes the accumulator, CANT settles in a section scan, and the sweep waits. -/
theorem startSection_eq {a : Aux} (ha : s.ctrl.setup.aux = some a) : startSection n s = { s with
    conv := { s.conv with scan := .sectionScan, work := some ⟨.cant, .settling a.cantSettle⟩ }
    seq := { s.seq with sweep := .waiting }
    store := { s.store with
      records := s.store.records ++ [openedRecord s.ctrl.setup n s.store.gapCount s.store.gapReasons]
      gapCount := 0
      gapReasons := ⟨false, false, false, false⟩ } } := by
  simp only [startSection, beginSectionScan, settleChannel, State.onConv_ctrl, State.onStore_ctrl, ha]; rfl
end

/-! ### The state in which a crossing's trigger is handled -/

section
variable (s : State)

@[simp] theorem State.atCrossing_odo : s.atCrossing.odo = { s.odo with pos := s.odo.pos + 1 } := countWindows_odo _
@[simp] theorem State.atCrossing_ctrl : s.atCrossing.ctrl = s.ctrl := countWindows_ctrl _
@[simp] theorem State.atCrossing_conv : s.atCrossing.conv = s.conv := countWindows_conv _
@[simp] theorem State.atCrossing_seq : s.atCrossing.seq = s.seq := countWindows_seq _
@[simp] theorem State.atCrossing_groupB : s.atCrossing.line.groupB = s.line.groupB := countWindows_groupB _
@[simp] theorem State.atCrossing_gapCount : s.atCrossing.store.gapCount = s.store.gapCount := (countWindows_store _).1
@[simp] theorem State.atCrossing_gapReasons : s.atCrossing.store.gapReasons = s.store.gapReasons := (countWindows_store _).2.1
@[simp] theorem State.atCrossing_length : s.atCrossing.store.records.length = s.store.records.length :=
  (countWindows_store _).2.2.1

theorem State.atCrossing_sweeping :
    (∃ r ∈ s.atCrossing.store.records, r.state = .sweeping) ↔ ∃ r ∈ s.store.records, r.state = .sweeping :=
  (countWindows_store _).2.2.2

theorem State.atCrossing_notSweeping (h : ∀ r ∈ s.store.records, r.state ≠ .sweeping) :
    ∀ r ∈ s.atCrossing.store.records, r.state ≠ .sweeping := fun r hr hs =>
  not_exists_sweeping h (s.atCrossing_sweeping.1 ⟨r, hr, hs⟩)
end

/-- Settles O9: the trigger finds the tests as the crossing's hypotheses say, and starts the section. -/
theorem crossingStartsSection : Obligations.CrossingStartsSection := by
  intro pair v a s hc hrun hmark hnumber hcool hnone hroom haux
  have hstart : handleTrigger s.odo.nextSection s.atCrossing = startSection s.odo.nextSection s.atCrossing :=
    handleTrigger_start (by simpa using hrun) (by simpa using hcool) (s.atCrossing_notSweeping hnone) (by simpa using hroom)
  rw [startSection_eq (a := a) (by simpa using haux)] at hstart
  rw [exec_crossing_trigger hc hmark hnumber hstart rfl]
  simp

/-! ### The GAP EDGEs of a skipped section -/

section
variable {s : State}

/-- A group has room below its capacity. -/
theorem State.hasRoom_iff (s : State) (g : TxGroup) : s.hasRoom g = true ↔ (s.line.group g).length < g.capacity :=
  decide_eq_true_iff

/-- With group B full, an EDGE is dropped. -/
theorem sendEdge_full (nb : Nat) (e : EdgeBody) (h : 8 ≤ s.line.groupB.length) : sendEdge nb e s = record .txDropped s := by
  unfold sendEdge
  rw [if_neg fun hr => Nat.not_lt.2 h ((s.hasRoom_iff .b).1 hr)]

/-- An EDGE sent leaves station control and the odometry unit alone, while its loss is not FATAL. -/
theorem sendEdge_keeps (nb : Nat) (e : EdgeBody) (h : s.line.groupB.length < 8 ∨ ¬ s.ctrl.setup.fatal .txDropped) :
    (sendEdge nb e s).ctrl = s.ctrl ∧ (sendEdge nb e s).odo = s.odo := by
  by_cases hl : s.line.groupB.length < 8
  · obtain ⟨x, hx⟩ := enqueue_eq s .b ⟨nb, .edge e⟩
    rw [sendEdge_room s nb e hl, hx]; exact ⟨rfl, rfl⟩
  · obtain ⟨f, hf⟩ := record_notFatal s .txDropped (h.resolve_left hl)
    rw [sendEdge_full nb e (by omega), hf]; exact ⟨rfl, rfl⟩

/-- EDGEs sent one after another enter group B while it has room; those left over are dropped, each recording TX_DROPPED. -/
theorem foldl_sendEdge (e : EdgeBody) (nbs : List Nat) {s : State}
    (h : nbs.length ≤ 8 - s.line.groupB.length ∨ ¬ s.ctrl.setup.fatal .txDropped) :
    let edges : List Telegram := nbs.map fun nb => ⟨nb, .edge e⟩
    let sent := edges.take (8 - s.line.groupB.length)
    nbs.foldl (fun x nb => sendEdge nb e x) s
        = (record .txDropped)^[edges.length - sent.length] (sent.foldl (fun x t => enqueue .b t x) s)
      ∧ (nbs.foldl (fun x nb => sendEdge nb e x) s).odo = s.odo := by
  induction nbs generalizing s with
  | nil => simp
  | cons nb nbs ih =>
    dsimp only at ih ⊢
    rw [List.foldl_cons, List.map_cons]
    by_cases hl : s.line.groupB.length < 8
    · have hb := enqueue_groupB s ⟨nb, .edge e⟩
      have hk := sendEdge_keeps nb e (.inl hl)
      rw [sendEdge_room s nb e hl] at hk ⊢
      obtain ⟨ih, ho⟩ := ih (s := enqueue .b ⟨nb, .edge e⟩ s) (by
        rw [hb, enqueue_ctrl, List.length_append, List.length_singleton]
        exact h.imp_left fun h => by rw [List.length_cons] at h; omega)
      rw [hb, List.length_append, List.length_singleton] at ih
      obtain ⟨k, hk8⟩ : ∃ k, 8 - s.line.groupB.length = k + 1 := ⟨7 - s.line.groupB.length, by omega⟩
      have hk7 : 8 - (s.line.groupB.length + 1) = k := by omega
      rw [hk7] at ih
      rw [hk8, List.take_succ_cons, List.foldl_cons, List.length_cons, List.length_cons, Nat.add_sub_add_right]
      exact ⟨ih, ho.trans hk.2⟩
    · have hl8 : 8 - s.line.groupB.length = 0 := by omega
      have hnf := h.resolve_left (by rw [List.length_cons]; omega)
      obtain ⟨f, hf⟩ := record_notFatal s .txDropped hnf
      obtain ⟨ih, ho⟩ := ih (s := record .txDropped s) (.inr (by rw [record_setup]; exact hnf))
      have hb : (record .txDropped s).line.groupB = s.line.groupB := by rw [hf]; rfl
      rw [sendEdge_full nb e (by omega)]
      rw [hb, hl8] at ih
      rw [hl8]
      exact ⟨ih, ho.trans (by rw [hf]; rfl)⟩

/-- The neighbours that are told of a skipped section, left before right: in RUN those configured, outside RUN none (R12). -/
def State.toldOfGaps (s : State) : List Nat :=
  if s.ctrl.station = .run then (s.ctrl.setup.neighbour .left).toList ++ (s.ctrl.setup.neighbour .right).toList else []

theorem gapEdges_toldOfGaps (s : State) (n : Nat) : (if s.ctrl.station = .run then gapEdges s.ctrl.setup n else []) =
    s.toldOfGaps.map fun nb => ⟨nb, .edge { number := n, side := .both, gap := true, entries := [] }⟩ := by
  unfold State.toldOfGaps gapEdges; split <;> rfl

/-- The GAP EDGEs of a skipped section are sent one after another. -/
theorem sendGapEdges_sends {n : Nat}
    (h : s.toldOfGaps.length ≤ 8 - s.line.groupB.length ∨ ¬ s.ctrl.setup.fatal .txDropped) :
    sendGapEdges n s = s.toldOfGaps.foldl
      (fun x nb => sendEdge nb { number := n, side := .both, gap := true, entries := [] } x) s := by
  unfold sendGapEdges State.toldOfGaps at *; dsimp only
  by_cases hr : s.ctrl.station = .run
  · rw [if_pos hr] at h ⊢
    rw [whileRun_run s _ hr]
    unfold edgeToSide
    cases hleft : s.ctrl.setup.neighbour .left with
    | none =>
      rw [whileRun_run s _ hr]
      cases hright : s.ctrl.setup.neighbour .right <;> rfl
    | some a =>
      rw [hleft] at h
      obtain ⟨hc, -⟩ := sendEdge_keeps (s := s) a { number := n, side := .both, gap := true, entries := [] }
        (h.imp_left fun h => by simp at h; omega)
      dsimp only
      rw [whileRun_run _ _ (by rw [hc]; exact hr), hc]
      cases hright : s.ctrl.setup.neighbour .right <;> rfl
  · rw [if_neg hr, whileRun_other s _ hr, whileRun_other s _ hr]; rfl

/-- The trigger of a section that one of the first four tests stops, from those tests in order. -/
theorem handleTrigger_skips {n : Nat} {reason : GapReasons} {kind : Option ErrKind}
    (h : (s.ctrl.station = .halted ∧ reason = ⟨true, false, false, false⟩ ∧ kind = none)
      ∨ (s.ctrl.station = .run ∧ s.conv.overTemp = true ∧ reason = ⟨false, true, false, false⟩ ∧ kind = none)
      ∨ (s.ctrl.station = .run ∧ s.conv.overTemp = false ∧ (∃ r ∈ s.store.records, r.state = .sweeping)
          ∧ reason = ⟨false, false, true, false⟩ ∧ kind = some .sweepBusy)
      ∨ (s.ctrl.station = .run ∧ s.conv.overTemp = false ∧ (∀ r ∈ s.store.records, r.state ≠ .sweeping)
          ∧ 8 ≤ s.store.records.length ∧ reason = ⟨false, false, false, true⟩ ∧ kind = some .storeFull)) :
    handleTrigger n s = skipSection n reason (kind.elim s fun k => record k s) := by
  obtain ⟨hh, rfl, rfl⟩ | ⟨hr, hot, rfl, rfl⟩ | ⟨hr, hcool, hsw, rfl, rfl⟩ | ⟨hr, hcool, hns, hfull, rfl, rfl⟩ := h
  · exact handleTrigger_halted hh
  · exact handleTrigger_hot hr hot
  · exact handleTrigger_busy hr hcool hsw
  · exact handleTrigger_full hr hcool hns hfull

/-- A kind that is not FATAL, or none, changes the fault recorder alone. -/
theorem elim_record_notFatal {kind : Option ErrKind} (h : ∀ k ∈ kind, ¬ s.ctrl.setup.fatal k) :
    ∃ f, (kind.elim s fun k => record k s) = s.onRecorder f := by
  cases kind with
  | none => exact ⟨id, rfl⟩
  | some k => exact record_notFatal s k (h k rfl)
end

/-- Settles O10: the tests give the reason and the kind, the section is skipped, and its GAP EDGEs are sent or dropped. -/
theorem crossingSkipsSection : Obligations.CrossingSkipsSection := by
  intro pair v reason kind s hc hmark hnumber htest hkind edges sent hdrop told skipped
  obtain ⟨f, htold⟩ : ∃ f, told = s.atCrossing.onRecorder f := elim_record_notFatal fun k hk => by simpa using hkind k hk
  have hskipped : told.onStore (·.skip reason) = skipped := by
    simp only [skipped, State.onStore, Store.skip, GapReasons.union, htold, State.onRecorder_store, State.atCrossing_gapCount,
      State.atCrossing_gapReasons]
  have hctrl : skipped.ctrl = s.ctrl := by simp [← hskipped, htold]
  have hgroupB : skipped.line.groupB = s.line.groupB := by simp [← hskipped, htold]
  have hodo : skipped.odo = s.atCrossing.odo := by simp [← hskipped, htold]
  have htrigger : handleTrigger s.odo.nextSection s.atCrossing = sendGapEdges s.odo.nextSection skipped := by
    rw [← hskipped]
    refine handleTrigger_skips ?_
    rw [State.atCrossing_ctrl, State.atCrossing_conv, State.atCrossing_length, State.atCrossing_sweeping]
    obtain h | h | h | ⟨hr, hcool, hns, h⟩ := htest
    · exact .inl h
    · exact .inr (.inl h)
    · exact .inr (.inr (.inl h))
    · exact .inr (.inr (.inr ⟨hr, hcool, s.atCrossing_notSweeping hns, h⟩))
  have htold : skipped.toldOfGaps = s.toldOfGaps := by unfold State.toldOfGaps; rw [hctrl]
  have hedges : edges = s.toldOfGaps.map fun nb =>
      ⟨nb, .edge { number := s.odo.nextSection, side := .both, gap := true, entries := [] }⟩ := gapEdges_toldOfGaps s _
  have hroom : skipped.toldOfGaps.length ≤ 8 - skipped.line.groupB.length ∨ ¬ skipped.ctrl.setup.fatal .txDropped := by
    rw [hgroupB, htold, hctrl]
    by_cases hl : s.toldOfGaps.length ≤ 8 - s.line.groupB.length
    · exact .inl hl
    · have hlength : edges.length = s.toldOfGaps.length := by rw [hedges, List.length_map]
      exact .inr (hdrop (by simp only [sent, List.length_take]; omega))
  obtain ⟨hsent, hkept⟩ := foldl_sendEdge { number := s.odo.nextSection, side := .both, gap := true, entries := [] } _ hroom
  rw [← sendGapEdges_sends hroom, ← htrigger] at hsent hkept
  rw [htold, ← hedges, hgroupB] at hsent
  exact exec_crossing_trigger hc hmark hnumber hsent (by rw [← hsent, hkept, hodo])

/-! ### The limit of section numbers -/

section
variable (s : State) (f : Odometry → Odometry)

/-! The store and the line neither read the odometry unit nor change it. -/

theorem offer_onOdo : offer (s.onOdo f) = (offer s).onOdo f := by
  unfold offer
  by_cases hb : (s.line.tx.isSome || s.line.breakSend) = true
  · rw [State.onOdo_line, if_pos hb, if_pos hb]
  · rw [State.onOdo_line, State.onOdo_ctrl, if_neg hb, if_neg hb]
    cases List.find? (fun g => !(s.line.group g).isEmpty) s.ctrl.setup.groupOrder with
    | none => rfl
    | some g => dsimp only; cases s.line.group g <;> rfl

theorem enqueue_onOdo (g : TxGroup) (t : Telegram) : enqueue g t (s.onOdo f) = (enqueue g t s).onOdo f := by
  unfold enqueue
  rw [apply_ite (State.onOdo f), ← offer_onOdo]
  rfl

theorem enterPart_onOdo : enterPart (s.onOdo f) = (enterPart s).onOdo f := by
  unfold enterPart
  rw [State.onOdo_store]
  cases s.store.records with
  | nil => rfl
  | cons r rest =>
    dsimp only
    rw [apply_ite (State.onOdo f), ← enqueue_onOdo]
    rfl

theorem enterParts_onOdo (n : Nat) : enterParts n (s.onOdo f) = (enterParts n s).onOdo f := by
  induction n generalizing s with
  | zero => rfl
  | succ n ih => rw [enterParts, enterPart_onOdo, ih]; rfl

theorem startReport_onOdo : startReport (s.onOdo f) = (startReport s).onOdo f := by
  unfold startReport
  rw [State.onOdo_store]
  cases s.store.records with
  | nil => rfl
  | cons r rest =>
    dsimp only
    rw [apply_ite (State.onOdo f), ← enterParts_onOdo]
    rfl

theorem countWindows_onOdo : countWindows (s.onOdo f) = (countWindows s).onOdo f := by
  unfold countWindows
  rw [State.onOdo_ctrl]
  cases s.ctrl.setup.stitch with
  | none => rfl
  | some bw =>
    obtain ⟨basis, window⟩ := bw
    cases basis with
    | sections => dsimp only; rw [← startReport_onOdo]; rfl
    | time => rfl
end

/-- Unless it ends in FAULT, a trigger leaves T_next alone. -/
theorem triggerSection_nextThreshold {n : Nat} {s : State} {x : Option Int} (h : s.odo.nextThreshold = x) :
    (triggerSection n s).ctrl.station ≠ .fault → (triggerSection n s).odo.nextThreshold = x :=
  kept_triggerSection (KeptByBlocks.of_odo_ctrl (fun o c => c.station ≠ .fault → o.nextThreshold = x)
    fun _ _ _ hs => absurd rfl hs) fun _ => h

/-- A trigger leaves the next number alone: it moves on after the trigger. -/
theorem triggerSection_nextSection (n : Nat) (s : State) : (triggerSection n s).odo.nextSection = s.odo.nextSection :=
  kept_triggerSection (KeptByBlocks.of_odo_ctrl (fun o _ => o.nextSection = s.odo.nextSection) fun _ _ h => h) rfl

/-- Settles O11: with the limit mark set only the windows count; the trigger of the last number is handled, and then marks
the limit. -/
theorem crossingAtNumberLimit : Obligations.CrossingAtNumberLimit := by
  intro pair v s hc
  refine ⟨fun hm => ?_, fun hm hn => ?_⟩
  · rw [exec_crossing hc, thresholdCrossed_limit (s := s.onOdo fun o => { o with pos := o.pos + 1 }) hc.survey hm,
      countWindows_onOdo]
    show Host.Outcome.next ((s.atCrossing.onOdo (Odometry.advance v)).onOdo fun o => { o with phase := pair }) = _
    simp only [State.onOdo, Odometry.advance, State.atCrossing_odo, hc.meets, Option.map_some]
  · rw [exec_crossing hc, thresholdCrossed_trigger (s := s.onOdo fun o => { o with pos := o.pos + 1 }) hc.survey hm]
    have hnext := triggerSection_nextThreshold (n := s.odo.nextSection) (s := s.onOdo fun o => { o with pos := o.pos + 1 }) hc.meets
    have hsection := triggerSection_nextSection s.odo.nextSection (s.onOdo fun o => { o with pos := o.pos + 1 })
    rw [State.onOdo_odo] at hsection ⊢
    dsimp only at hsection ⊢
    generalize triggerSection s.odo.nextSection _ = t at hnext hsection ⊢
    refine ⟨_, rfl, ?_⟩
    rw [advanceNumber, if_pos (show _ = Config.lastSection from hn)]
    obtain ⟨hseen, -⟩ := record_seen ((t.onOdo (Odometry.advance v)).onOdo fun o => { o with limitMark := true }) .odometer
    refine ⟨by simp, by simp [Odometry.advance, hsection, hn], hseen, fun hs => ?_⟩
    obtain ⟨ho, hct⟩ | ⟨-, hct⟩ :=
      record_odo .odometer ((t.onOdo (Odometry.advance v)).onOdo fun o => { o with limitMark := true })
    · rw [State.onOdo_ctrl, hct] at hs
      simp [ho, Odometry.advance, hnext hs]
    · rw [State.onOdo_ctrl, hct] at hs
      exact absurd rfl hs

end Sys2Proof.Machine

/-! Station control: START, RESTART, the end of reset, and the recording of an error kind. -/

namespace Sys2Proof.Machine

/-! ### The handler's taking of START and RESTART -/

section
variable {s : State} {x : Received} {rest : List Received}

theorem exec_start (hl : s.resetAsserted = false) (hq : s.line.queue = x :: rest) (hk : x.kind = .start) (hp : x.payload = [])
    (ha : s.ctrl.station.accepts .start = true) : exec .start s = .next (handleStart x (s.withQueue rest)) := by
  show live (takeOldest (Received.isKind .start) handleStart) s = _
  rw [live_eq s _ hl, takeOldest_handled s _ _ x rest hq (decide_eq_true hk) (by rwa [hk]) (by rw [hk, hp]; rfl)]

theorem exec_restart (hl : s.resetAsserted = false) (hq : s.line.queue = x :: rest) (hk : x.kind = .restart)
    (hp : x.payload = []) : exec .restart s = .next (handleRestart x (s.withQueue rest)) := by
  have ha : s.ctrl.station.accepts .restart = true := by cases s.ctrl.station <;> rfl
  show live (takeOldest (Received.isKind .restart) handleRestart) s = _
  rw [live_eq s _ hl, takeOldest_handled s _ _ x rest hq (decide_eq_true hk) (by rwa [hk]) (by rw [hk, hp]; rfl)]

/-- The START checks name the lowest item that fails. -/
theorem startChecks_eq_some {own : Nat} {u : Setup} {item : Nat} (h1 : 1 ≤ item) (h32 : item ≤ 32)
    (hf : itemFails own u item = true) (hlow : ∀ j : Nat, 1 ≤ j → j < item → itemFails own u j = false) :
    startChecks own u = some item := by
  unfold startChecks
  rw [List.find?_range'_eq_some]
  refine ⟨hf, by simp only [List.mem_range'_1]; omega, fun j hj hji => by simp [hlow j hj hji]⟩

theorem handleStart_fails {item : Nat} (hc : s.ctrl.station = .config)
    (hi : startChecks s.ctrl.ownNumber.toNat s.ctrl.setup = some item) :
    handleStart x s = record .setupInvalid (s.onCtrl fun c => { c with failingItem := some item }) := by
  simp only [handleStart, hc, hi]

theorem handleStart_passes (hc : s.ctrl.station = .config)
    (hi : startChecks s.ctrl.ownNumber.toNat s.ctrl.setup = none) : handleStart x s = enterRun s := by
  simp only [handleStart, hc, hi]

theorem handleStart_halted (hc : s.ctrl.station = .halted) : handleStart x s = s.onCtrl fun c => { c with station := .run } := by
  simp only [handleStart, hc]

theorem handleStart_run (hc : s.ctrl.station = .run) : handleStart x s = s := by
  simp only [handleStart, hc]
end

/-- Settles O13: the checks name the lowest failing item; HALTED and RUN take START as it stands. -/
theorem startElsewhere : Obligations.StartElsewhere := by
  intro x rest s hl hq hk hp
  refine ⟨fun item hc h1 h32 hf hlow => ?_, fun hc => ?_, fun hc => ?_⟩
  · rw [exec_start hl hq hk hp (by rw [hc]; rfl), handleStart_fails (s := s.withQueue rest) hc (startChecks_eq_some h1 h32 hf hlow)]
    rfl
  · rw [exec_start hl hq hk hp (by rw [hc]; rfl), handleStart_halted (s := s.withQueue rest) hc]; rfl
  · rw [exec_start hl hq hk hp (by rw [hc]; rfl), handleStart_run (s := s.withQueue rest) hc]

/-! ### The entry into RUN -/

section
variable {s : State}

/-- With an empty store a trigger counts towards no window. -/
theorem countWindows_empty (h : s.store.records = []) : countWindows s = s := by
  have hs : (s.onStore fun st => { st with records := [] }) = s := by simp only [State.onStore]; rw [← h]
  unfold countWindows
  split
  next window _ =>
    have hmap : s.onStore (fun st => { st with records := st.records.map (SectionRecord.countTrigger s.ctrl.setup window) }) = s := by
      simp only [State.onStore, h, List.map_nil]; rw [← h]
    rw [hmap, startReport_idle s (by simp [h])]
  all_goals rfl

theorem foldl_enqueue_onOdo (f : Odometry → Odometry) (g : TxGroup) (ts : List Telegram) (s : State) :
    ts.foldl (fun x t => enqueue g t x) (s.onOdo f) = (ts.foldl (fun x t => enqueue g t x) s).onOdo f := by
  induction ts generalizing s with
  | nil => rfl
  | cons t ts ih => rw [List.foldl_cons, List.foldl_cons, enqueue_onOdo, ih]

/-- The odometry unit after the entry into RUN: the base at P, T_next one SPACING above it, section 0 triggered (R6). -/
def Odometry.entered (o : Odometry) (v : Survey) : Odometry :=
  { o with base := some o.pos, nextThreshold := some (o.pos + (v.spacing : Int)), nextSection := 1, limitMark := false }

/-- The entry into RUN with an empty store starts section 0. -/
theorem startOdometry_starts {v : Survey} {a : Aux} (hv : s.ctrl.setup.survey = some v) (ha : s.ctrl.setup.aux = some a)
    (hr : s.ctrl.station = .run) (hcool : s.conv.overTemp = false) (hempty : s.store.records = []) :
    startOdometry s = { s with
      odo := s.odo.entered v
      conv := { s.conv with scan := .sectionScan, work := some ⟨.cant, .settling a.cantSettle⟩ }
      seq := { s.seq with sweep := .waiting }
      store := { s.store with
        records := [openedRecord s.ctrl.setup 0 s.store.gapCount s.store.gapReasons]
        gapCount := 0
        gapReasons := ⟨false, false, false, false⟩ } } := by
  rw [startOdometry_eq hv, triggerSection, countWindows_empty (by simpa using hempty),
    handleTrigger_start (by simpa using hr) (by simpa using hcool) (by simp [hempty]) (by simp [hempty]),
    startSection_eq (a := a) (by simpa using ha)]
  simp only [State.onOdo, hempty, List.nil_append]
  rfl

/-- Under OVER_TEMP the entry into RUN with an empty store skips section 0 as HOT. -/
theorem startOdometry_skips {v : Survey} (hv : s.ctrl.setup.survey = some v) (hr : s.ctrl.station = .run)
    (hhot : s.conv.overTemp = true) (hempty : s.store.records = [])
    (hroom : s.line.groupB.length + (gapEdges s.ctrl.setup 0).length ≤ 8) :
    startOdometry s = (gapEdges s.ctrl.setup 0).foldl (fun x e => enqueue .b e x) { s with
      odo := s.odo.entered v
      store := { s.store with
        gapCount := s.store.gapCount + 1
        gapReasons := { s.store.gapReasons with hot := true } } } := by
  have hskip : s.store.skip .onlyHot = { s.store with
      gapCount := s.store.gapCount + 1, gapReasons := { s.store.gapReasons with hot := true } } := by
    simp [Store.skip, GapReasons.union, GapReasons.onlyHot]
  rw [startOdometry_eq hv, triggerSection, countWindows_empty (by simpa using hempty),
    handleTrigger_hot (by simpa using hr) (by simpa using hhot), skipSection, sendGapEdges_eq _ _ (by simpa using hroom),
    if_pos (by simpa using hr), ← foldl_enqueue_onOdo]
  simp only [State.onOdo, State.onStore, hskip]
  rfl

/-- Of the element table made from the CALIB items, element 8k + j is element j of item 3 + k (R31). -/
theorem initTable_get (u : Setup) (k j : Fin 8) (item : Vector ElementCalib 8) (h : u.calib[k] = some item) :
    (initTable u)[8 * k.val + j.val] =
      { angle := item[j].angle, offset := item[j].offset, enabled := item[j].enabled, cls := item[j].cls, weakRun := 0 } := by
  have hk : (8 * k.val + j.val) / 8 = k.val := by omega
  have hj : (8 * k.val + j.val) % 8 = j.val := by omega
  have hk' : u.calib[k.val] = some item := h
  simp only [initTable, Vector.getElem_ofFn, hk, hj, hk']
  rfl
end

/-- Settles O12: the checks pass, the station enters RUN, and section 0 goes through the trigger tests with an empty store. -/
theorem startFromConfig : Obligations.StartFromConfig := by
  refine ⟨?_, initTable_get⟩
  intro x rest v a s hl hq hk hp hc hchecks hv ha hempty entered
  rw [exec_start hl hq hk hp (by rw [hc]; rfl), handleStart_passes (s := s.withQueue rest) hc
    ((startChecks_eq_none _ _).2 hchecks), enterRun_eq]
  refine ⟨fun hcool => ?_, fun hhot hroom => ?_⟩
  · refine (congrArg Host.Outcome.next (startOdometry_starts (v := v) (a := a) ?_ ?_ ?_ ?_ ?_)).trans ?_
    exacts [hv, ha, rfl, hcool, hempty, rfl]
  · refine (congrArg Host.Outcome.next (startOdometry_skips (v := v) ?_ ?_ ?_ ?_ ?_)).trans ?_
    exacts [hv, rfl, hhot, hempty, hroom, rfl]

/-! ### RESTART -/

/-- Outside FAULT the attention output follows the first-error record alone. -/
theorem followAttention_outside {s : State} (h : s.ctrl.station ≠ .fault) :
    s.followAttention = { s with recorder := { s.recorder with attention := s.recorder.firstError.isSome } } := by
  simp [State.followAttention, h]

/-- Settles O49: RESTART sets every block as its rule says, and the sweep only where there is one. -/
theorem restartHandled : Obligations.RestartHandled := by
  intro x rest s hl hq hk hp kept
  rw [exec_restart hl hq hk hp]
  by_cases hs : s.seq.sweep = .idle <;>
    simp only [handleRestart, State.onOdo_seq, State.onCtrl_seq, State.withQueue_seq, hs, if_true, if_false]
  all_goals
    rw [followAttention_outside]
    · rfl
    · exact nofun

/-! ### Recording an error kind -/

section
variable {k : ErrKind} {s : State}

theorem record_of_quiet (h : (s.ctrl.setup.policy k).masked = true ∨ (s.ctrl.setup.policy k).severity = .note) :
    record k s = s.onRecorder (·.count k) := by
  obtain ⟨-, e⟩ | ⟨⟨hm, hv⟩, -⟩ | ⟨⟨hm, hv, -⟩, -⟩ := record_cases s k
  · exact e
  · simp_all
  · simp_all

theorem record_of_first (hm : (s.ctrl.setup.policy k).masked = false) (h : (s.ctrl.setup.policy k).severity = .degraded
      ∨ ((s.ctrl.setup.policy k).severity = .fatal ∧ s.ctrl.station = .fault)) :
    record k s = (s.onRecorder fun r => (r.count k).fill k).followAttention := by
  obtain ⟨hq, -⟩ | ⟨-, e⟩ | ⟨⟨-, hv, hs⟩, -⟩ := record_cases s k
  · simp_all
  · exact e
  · simp_all

theorem record_of_fatal (hm : (s.ctrl.setup.policy k).masked = false) (hv : (s.ctrl.setup.policy k).severity = .fatal)
    (hs : s.ctrl.station ≠ .fault) :
    record k s = enterFault (s.onRecorder fun r => (r.count k).fill k).followAttention := by
  obtain ⟨hq, -⟩ | ⟨⟨-, h⟩, -⟩ | ⟨-, e⟩ := record_cases s k
  · simp_all
  · simp_all
  · exact e
end

/-- Settles O50: a kind is counted; unmasked and not NOTE, it fills the first-error record; FATAL outside FAULT, it enters FAULT. -/
theorem recordingAKind : Obligations.RecordingAKind := by
  intro k s t counted p
  refine ⟨record_kinds s k, fun h => ?_, fun hm h => ?_, fun hm hv hs => ?_⟩
  · exact (record_of_quiet h).trans rfl
  · exact (record_of_first hm h).trans rfl
  · have ht : t = enterFault (s.onRecorder fun r => (r.count k).fill k).followAttention := record_of_fatal hm hv hs
    have hline := enterFault_line (s.onRecorder fun r => (r.count k).fill k).followAttention
    obtain ⟨hb, hc, -⟩ := Line.enterFault_onlyGroupA s.line
    refine ⟨?_, ?_, ?_, ?_, ?_, record_table s k, record_groupA s k, ?_, ?_, record_queue s k, ?_, ?_, record_env s k, ?_⟩ <;>
      rw [ht]
    · rw [enterFault_recorder]; rfl
    · rw [enterFault_ctrl]; rfl
    · exact enterFault_records _
    · exact enterFault_drainPending _
    · rw [enterFault_seq, abortSection_sweep]
    · rw [hline]; exact hb
    · rw [hline]; exact hc
    · rw [enterFault_watch]; rfl
    · rw [enterFault_odo]; rfl
    · rw [enterFault_gapCount]; rfl

/-! ### The end of reset -/

/-- An absent value is no value. -/
theorem none_eq_some_elim {α : Type} {P : Prop} {v : α} (h : none = some v) : P := nomatch h

/-- With every item absent no item is stored. -/
theorem Setup.holds_empty (item : Nat) : Setup.empty.holds item = false := by
  simp only [Setup.holds, Setup.empty, Vector.getElem_replicate, Option.isSome_none, ite_self, dite_eq_ite]

theorem Setup.inRange_empty : SetupInRange Setup.empty := by
  constructor
  case calib | envelope | exclusion => intro k v hv; simp [Setup.empty] at hv
  all_goals intro v hv; exact none_eq_some_elim hv

section
variable (straps : BitVec 4) (pair : Phase) (s : State)

theorem afterReset_lineWithinCapacity : LineWithinCapacity (afterReset straps pair s) := by
  constructor <;> exact Nat.zero_le _

theorem afterReset_recorderSound : RecorderSound (afterReset straps pair s) where
  counts k := by
    show ((Vector.replicate 16 ⟨false, 0⟩ : Vector KindRecord 16)[k]).count ≤ 65535
    simp
  firstSeen _ h := none_eq_some_elim h
  attention := rfl

theorem afterReset_odometrySound : OdometrySound (afterReset straps pair s) := (afterReset_advanced s.odo straps pair s).sound

theorem afterReset_setupSound : SetupSound (afterReset straps pair s) where
  ranges := Setup.inRange_empty
  marks k _ := by
    show (0#32).getLsbD k = Setup.empty.holds (k + 1)
    rw [Setup.holds_empty, BitVec.getLsbD_zero]

theorem afterReset_storeSound : StoreSound (afterReset straps pair s) := by
  have none_held : ∀ {P : SectionRecord → Prop}, ∀ r ∈ (afterReset straps pair s).store.records, P r := fun _ h => nomatch h
  exact
    { capacity := Nat.zero_le _, ascending := .nil, gaps := Nat.zero_le _, firstGap := fun _ h => none_eq_some_elim h
      inFlight := rfl, newest := none_held, oldest := none_held, reports := fun _ h => none_eq_some_elim h, held := none_held
      run := fun h => absurd rfl h, halted := fun _ => none_held, empty := fun _ => rfl, config := fun _ => rfl
      pendingDrain := rfl, target := rfl, requester := rfl, bins := none_held }

theorem afterReset_emissionSound : EmissionSound (afterReset straps pair s) where
  run h := absurd rfl h
  fired _ h := nomatch h
  idle _ := rfl
  released _ := ⟨rfl, rfl⟩

theorem afterReset_inFlightSound : InFlightSound (afterReset straps pair s) := ⟨⟨rfl, rfl, rfl⟩, rfl, rfl, rfl⟩

theorem afterReset_owedSound : OwedSound (afterReset straps pair s) where
  full h := absurd rfl h
  kinds _ h := nomatch h
  drained := Nat.zero_le _
  limit := Nat.zero_le _

theorem afterReset_watchSound : WatchSound (afterReset straps pair s) where
  capacity := Nat.zero_le _
  spans _ h := nomatch h
  apart := .nil
  ids := .nil
  pending _ h := nomatch h
  raises _ h := nomatch h
  owners _ h := nomatch h
  silent _ h := nomatch h
  alive before after t h := absurd h.symm (List.append_ne_nil_of_right_ne_nil before (List.cons_ne_nil t after))

theorem afterReset_binsBounded : BinsBounded (afterReset straps pair s) where
  swept _ h := nomatch h
  sweeping _ h := nomatch h
  members := Nat.zero_le _
  opened _ h := none_eq_some_elim h
  held _ h := none_eq_some_elim h
end

/-- Settles O3: the state after reset is the listed one, and each invariant holds of it. -/
theorem powerOnState : Obligations.PowerOnState := fun straps pair s =>
  ⟨rfl, afterReset_lineWithinCapacity straps pair s, afterReset_recorderSound straps pair s,
    afterReset_odometrySound straps pair s, afterReset_setupSound straps pair s, afterReset_storeSound straps pair s,
    .of_outside nofun, afterReset_emissionSound straps pair s, afterReset_inFlightSound straps pair s,
    afterReset_owedSound straps pair s, afterReset_watchSound straps pair s, (fun _ h => nomatch h),
    afterReset_binsBounded straps pair s⟩

end Sys2Proof.Machine

/-! The breaks and the halt they bring: a transmission abandoned, the section in flight aborted, a drain completed, the HELD
records closed and the oldest reported, each given as one update of the state while the line lets nothing begin. -/

namespace Sys2Proof.Machine

/-! ### A line on which nothing begins -/

/-- What enters a group waits there: the receiver is not in IDLE, or the station drives its break. -/
def Line.Waits (l : Line) : Prop := l.rx ≠ .idle ∨ l.breakSend = true

section
variable {s : State}

theorem enqueue_waits (h : s.line.Waits) (g : TxGroup) (t : Telegram) :
    enqueue g t s = s.onLine fun l => l.setGroup g (l.group g ++ [t]) := by
  obtain hx | hb := h
  · exact enqueue_busy s g t hx
  · have ho : offer (s.onLine fun l => l.setGroup g (l.group g ++ [t])) = s.onLine fun l => l.setGroup g (l.group g ++ [t]) := by
      unfold offer
      exact if_pos (by simp [hb])
    unfold enqueue
    dsimp only
    rw [ho, ite_self]

/-! ### The transmission abandoned -/

/-- The transmission frees the head of its group: RESTART has condemned its telegram (R167). -/
def Line.frees (l : Line) (g : TxGroup) : Bool := l.tx.any fun x => x.condemned && decide (x.group = g)

/-- What a group holds once the transmission is abandoned. -/
def Line.leftIn (l : Line) (g : TxGroup) : List Telegram := if l.frees g then (l.group g).tail else l.group g

/-- The owed telegram that takes a slot of group A freed so (log 10). -/
def State.refill (s : State) : List Telegram := if s.line.frees .a then s.watch.owed.take 1 else []

/-- A record whose RAISE is among the telegrams is no longer owed it. -/
def LocalRecord.announcedBy (ts : List Telegram) (r : LocalRecord) : LocalRecord :=
  if ts.any (fun t => r.id.any fun id => t.isRaiseOf id) then { r with owed := false } else r

/-- The state once the transmission is abandoned. -/
def State.abandoned (s : State) : State :=
  { s with
    line := { s.line with
      tx := none, groupA := s.line.leftIn .a ++ s.refill, groupB := s.line.leftIn .b, groupC := s.line.leftIn .c }
    watch := { s.watch with
      locals := s.watch.locals.map (LocalRecord.announcedBy s.refill)
      owed := s.watch.owed.drop s.refill.length } }

theorem map_announcedBy_nil (rs : List LocalRecord) : rs.map (LocalRecord.announcedBy []) = rs :=
  (List.map_congr_left fun _ _ => rfl).trans (List.map_id rs)

/-- The RAISE that leaves the owed-telegram list clears the owed field of its record. -/
theorem setOwed_false_locals (w : Watch) (t : Telegram) :
    (w.setOwed t false).locals = w.locals.map (LocalRecord.announcedBy [t]) := by
  refine List.map_congr_left fun r _ => ?_
  unfold LocalRecord.announcedBy
  cases r.id <;> simp

/-- With no slot of group A freed, the watch unit is as before. -/
theorem abandoned_of_not_frees (h : s.line.frees .a = false) : s.abandoned = s.onLine fun l =>
    { l with tx := none, groupA := l.groupA, groupB := l.leftIn .b, groupC := l.leftIn .c } := by
  have hr : s.refill = [] := by simp [State.refill, h]
  have ha : s.line.leftIn .a = s.line.groupA := by simp [Line.leftIn, h]
  simp only [State.abandoned, State.onLine, hr, ha, map_announcedBy_nil, List.append_nil, List.length_nil, List.drop_zero]

/-- While the line lets nothing begin, a transmission ends without completing as stated. -/
theorem abandonTx_eq (h : s.line.Waits) : abandonTx s = s.abandoned := by
  cases ht : s.line.tx with
  | none =>
    have hf : ∀ g, s.line.frees g = false := fun g => by simp [Line.frees, ht]
    rw [abandoned_of_not_frees (hf .a), abandonTx_kept s (by simp [ht])]
    simp [State.onLine, Line.leftIn, hf]
  | some x =>
    obtain ⟨g, frame, condemned⟩ := x
    cases condemned with
    | false =>
      have hf : ∀ g, s.line.frees g = false := fun g => by simp [Line.frees, ht]
      rw [abandoned_of_not_frees (hf .a), abandonTx_kept s (by simp [ht])]
      simp [State.onLine, Line.leftIn, hf]
    | true =>
      have hf : ∀ g', s.line.frees g' = decide (g = g') := fun g' => by simp [Line.frees, ht]
      cases g with
      | a =>
        have hr : s.refill = s.watch.owed.take 1 := by simp [State.refill, hf]
        have habandon : abandonTx s = refillA (popGroup .a (s.onLine fun l => { l with tx := none })) := by
          simp [abandonTx, ht]
        rw [habandon]
        obtain ⟨ho, e⟩ | ⟨t, rest, ho, e⟩ := refillA_cases (popGroup .a (s.onLine fun l => { l with tx := none })) <;> rw [e]
        · have ho : s.watch.owed = [] := ho
          simp [State.abandoned, popGroup, State.onLine, Line.setGroup, Line.leftIn, hf, hr, ho, map_announcedBy_nil]
          rw [← ho]
        · have ho : s.watch.owed = t :: rest := ho
          refine (enqueue_waits (by exact h) _ _).trans ?_
          simp [State.abandoned, popGroup, State.onLine, State.onWatch, Line.setGroup, Line.leftIn, hf, hr, ho, setOwed_false_locals]
          exact ⟨rfl, rfl⟩
      | b =>
        rw [abandoned_of_not_frees (hf .a)]
        simp [abandonTx, ht, popGroup, State.onLine, Line.setGroup, Line.leftIn, hf]
      | c =>
        rw [abandoned_of_not_frees (hf .a)]
        simp [abandonTx, ht, popGroup, State.onLine, Line.setGroup, Line.leftIn, hf]
/-! ### The section in flight aborted -/

/-- The accumulator's reasons once records are discarded: theirs join it, and HALT with them (R47). -/
def GapReasons.afterDiscard (x : GapReasons) (gone : List SectionRecord) : GapReasons where
  halt := (x.halt || gone.any fun r => r.summary.gapReasons.halt) || !gone.isEmpty
  hot := x.hot || gone.any fun r => r.summary.gapReasons.hot
  busy := x.busy || gone.any fun r => r.summary.gapReasons.busy
  storeFull := x.storeFull || gone.any fun r => r.summary.gapReasons.storeFull

theorem Store.foldl_handBack (gone : List SectionRecord) (st : Store) : gone.foldl Store.handBack st = { st with
    gapCount := st.gapCount + (gone.map fun r => r.summary.gapBefore + 1).sum
    gapReasons := st.gapReasons.afterDiscard gone } := by
  induction gone generalizing st with
  | nil => simp [GapReasons.afterDiscard]
  | cons r gone ih =>
    rw [List.foldl_cons, ih]
    simp [Store.handBack, GapReasons.afterDiscard, GapReasons.union, GapReasons.onlyHalt, Bool.or_assoc, Nat.add_assoc]

/-- The SWEEPING records of a store: the one of the section in flight. -/
def Store.swept (st : Store) : List SectionRecord := st.records.filter fun r => decide (r.state = .sweeping)

/-- The records of a store that are not SWEEPING. -/
def Store.rest (st : Store) : List SectionRecord := st.records.filter fun r => decide (r.state ≠ .sweeping)

/-- The state once the section in flight is aborted. -/
def State.aborted (s : State) : State :=
  { s with
    seq := if s.seq.sweep = .idle then s.seq
           else { s.seq with groups := [], sweep := .idle, fixed := none, rows := 0, cols := 0 }
    echo := if s.seq.sweep = .idle then s.echo else { acceptance := none, geometry := none }
    conv := { s.conv with scan :=
      if s.seq.sweep ≠ .idle ∧ s.conv.scan = .sectionScan then .periodic else s.conv.scan }
    store := { s.store with
      records := s.store.rest
      gapCount := s.store.gapCount + (s.store.swept.map fun r => r.summary.gapBefore + 1).sum
      gapReasons := s.store.gapReasons.afterDiscard s.store.swept } }

theorem Store.swept_eq_nil {st : Store} (h : ∀ r ∈ st.records, r.state ≠ .sweeping) : st.swept = [] := by
  simpa [Store.swept, List.filter_eq_nil_iff] using h

theorem Store.rest_eq_records {st : Store} (h : ∀ r ∈ st.records, r.state ≠ .sweeping) : st.rest = st.records := by
  simpa [Store.rest, List.filter_eq_self] using h

theorem abortSection_eq (h : s.seq.sweep = .idle → ∀ r ∈ s.store.records, r.state ≠ .sweeping) :
    abortSection s = s.aborted := by
  by_cases hs : s.seq.sweep = .idle
  · rw [abortSection_idle s hs]
    simp [State.aborted, hs, Store.swept_eq_nil (h hs), Store.rest_eq_records (h hs), GapReasons.afterDiscard]
  · have hd : s.store.discardSweeping = s.aborted.store := Store.foldl_handBack _ _
    rw [abortSection_flight s hs, hd]
    simp only [State.aborted, hs, if_false, ne_eq, not_false_eq_true, true_and]
    split <;> rfl

/-! ### A drain completed -/

/-- The DRAINED of a drain that completes, if it does and has a requester. -/
def Store.drainedTelegrams (st : Store) (completes : Bool) : List Telegram :=
  if completes then st.drainRequester.toList.map fun q => ⟨q, .drained st.drainTarget⟩ else []

/-- Group A is full. -/
def Line.fullA (l : Line) : Bool := decide (4 ≤ l.groupA.length)

/-- A DRAINED is dropped: group A is full, and eight are owed already (R148). -/
def State.dropsDrained (s : State) (completes : Bool) : Bool :=
  s.line.fullA && !(s.store.drainedTelegrams completes).isEmpty && decide (8 ≤ (s.watch.owed.filter Telegram.isDrained).length)

/-- The state once a drain, if it does, has completed; `noted` is the recorder with a TX_DROPPED. -/
def State.drained (completes : Bool) (noted : Recorder) (s : State) : State :=
  { s with
    store := { s.store with
      drainPending := s.store.drainPending && !completes
      drainTarget := if completes then none else s.store.drainTarget
      drainRequester := if completes then none else s.store.drainRequester }
    watch := { s.watch with owed :=
      if s.line.fullA && !s.dropsDrained completes then s.watch.owed ++ s.store.drainedTelegrams completes else s.watch.owed }
    line := { s.line with groupA :=
      if s.line.fullA then s.line.groupA else s.line.groupA ++ s.store.drainedTelegrams completes }
    recorder := if s.dropsDrained completes then noted else s.recorder }

/-- A DRAINED is no RAISE, so that no record's owed field follows it. -/
theorem setOwed_drained (w : Watch) (q : Nat) (target : Option Nat) (b : Bool) : w.setOwed ⟨q, .drained target⟩ b = w := by
  have hmap : ∀ r : LocalRecord, (match r.id with
      | some id => if Telegram.isRaiseOf ⟨q, .drained target⟩ id then { r with owed := b } else r
      | none => r) = r := fun r => by cases r.id <;> simp [Telegram.isRaiseOf]
  have hid : w.locals.map (fun r : LocalRecord => match r.id with
      | some id => if Telegram.isRaiseOf ⟨q, .drained target⟩ id then { r with owed := b } else r
      | none => r) = w.locals := (List.map_congr_left fun r _ => hmap r).trans (List.map_id _)
  exact congrArg (fun ls => { w with locals := ls }) hid

theorem drained_false (noted : Recorder) : s.drained false noted = s := by
  simp [State.drained, Store.drainedTelegrams, State.dropsDrained]

theorem hasRoom_a : s.hasRoom .a = !s.line.fullA := by
  rw [Bool.eq_iff_iff, State.hasRoom_iff]
  simp [Line.fullA, TxGroup.capacity, Config.groupACapacity]

/-- A kind that is not FATAL gives the state with its recorder changed, and nothing else. -/
theorem record_eq_recorder {k : ErrKind} (h : ¬ s.ctrl.setup.fatal k) :
    record k s = { s with recorder := (record k s).recorder } := by
  obtain ⟨f, e⟩ := record_notFatal s k h
  rw [e]; rfl

/-- A drain that completes while the line lets nothing begin: its DRAINED enters group A, or is owed, or is dropped. -/
theorem completeDrain_eq (h : s.line.Waits) (hn : s.dropsDrained true = true → ¬ s.ctrl.setup.fatal .txDropped) :
    completeDrain s = s.drained true (record .txDropped s).recorder := by
  unfold completeDrain
  cases hq : s.store.drainRequester with
  | none => simp [State.drained, Store.drainedTelegrams, State.dropsDrained, hq, State.onStore]
  | some q =>
    have ht : s.store.drainedTelegrams true = [⟨q, .drained s.store.drainTarget⟩] := by simp [Store.drainedTelegrams, hq]
    have hdrops : s.dropsDrained true = (s.line.fullA && decide (8 ≤ (s.watch.owed.filter Telegram.isDrained).length)) := by
      simp [State.dropsDrained, ht]
    have hnine : (Telegram.isDrained ⟨q, .drained s.store.drainTarget⟩
        && decide (Config.owedDrainedMax ≤ (s.watch.owed.filter Telegram.isDrained).length))
        = decide (8 ≤ (s.watch.owed.filter Telegram.isDrained).length) := rfl
    dsimp only
    unfold produceA
    rw [hasRoom_a, hnine]
    cases hf : s.line.fullA with
    | false =>
      rw [if_pos Bool.not_false, enqueue_waits h]
      simp [State.drained, hdrops, ht, hf, State.onStore, State.onLine, Line.setGroup]
    | true =>
      rw [if_neg (by simp)]
      by_cases hc : 8 ≤ (s.watch.owed.filter Telegram.isDrained).length
      · rw [if_pos (decide_eq_true hc), record_eq_recorder (hn (by simp [hdrops, hf, hc]))]
        simp [State.drained, hdrops, hf, hc, State.onStore]
      · rw [if_neg (by simpa using hc)]
        simp [State.drained, hdrops, ht, hf, hc, State.onStore, State.onWatch, owe, setOwed_drained]

/-- The abort at entry to HALTED completes a drain when it discards the last marked record. -/
def Store.haltCompletes (st : Store) : Bool :=
  st.swept.any (fun r => r.summary.drainMark) && st.rest.all fun r => !r.summary.drainMark

theorem abortForHalt_eq (h : s.line.Waits) (hs : s.seq.sweep = .idle → ∀ r ∈ s.store.records, r.state ≠ .sweeping)
    (hn : s.aborted.dropsDrained s.store.haltCompletes = true → ¬ s.ctrl.setup.fatal .txDropped) :
    abortForHalt s = s.aborted.drained s.store.haltCompletes (record .txDropped s.aborted).recorder := by
  have hcompletes : (decide (s.seq.sweep ≠ .idle)
      && (s.store.records.any fun r => decide (r.state = .sweeping) && r.summary.drainMark)
      && s.aborted.store.noneMarked) = s.store.haltCompletes := by
    have hany : (s.store.records.any fun r => decide (r.state = .sweeping) && r.summary.drainMark)
        = s.store.swept.any fun r => r.summary.drainMark := by rw [Store.swept, List.any_filter]
    rw [hany]
    by_cases hi : s.seq.sweep = .idle
    · simp [Store.haltCompletes, hi, Store.swept_eq_nil (hs hi)]
    · simp [Store.haltCompletes, hi]; rfl
  unfold abortForHalt
  dsimp only
  rw [abortSection_eq hs, hcompletes]
  cases hc : s.store.haltCompletes with
  | false => rw [if_neg Bool.false_ne_true, drained_false]
  | true => rw [if_pos rfl]; exact completeDrain_eq h (hc ▸ hn)

/-! ### The oldest record reported -/

/-- The oldest record, when it is READY: the one that reports. -/
def Store.reporting (st : Store) : List SectionRecord := (st.records.take 1).filter fun r => decide (r.state = .ready)

/-- How many parts of a record's report enter group C at once (R101). -/
def Line.entering (l : Line) (r : SectionRecord) : Nat := min r.partCount (8 - l.groupC.length)

/-- The state once the oldest record, if it is READY, reports. -/
def State.reported (s : State) : State :=
  { s with
    store := { s.store with records :=
      (s.store.reporting.map fun r => { r with state := .sending, partsQueued := s.line.entering r })
        ++ s.store.records.drop s.store.reporting.length }
    line := { s.line with groupC := s.line.groupC ++ s.store.reporting.flatMap fun r =>
      (List.range (s.line.entering r)).map fun i => ⟨31, .report (r.part i)⟩ } }

/-- Parts of the SENDING record enter group C in order, while it has room. -/
theorem enterParts_waits (r : SectionRecord) (rest : List SectionRecord) (hr : r.state = .sending) (n q : Nat) {s : State}
    (hrec : s.store.records = { r with partsQueued := q } :: rest) (h : s.line.Waits) (hq : q + n ≤ r.partCount) :
    enterParts n s = { s with
      store := { s.store with records := { r with partsQueued := q + min n (8 - s.line.groupC.length) } :: rest }
      line := { s.line with groupC := s.line.groupC ++ (List.range (min n (8 - s.line.groupC.length))).map fun i =>
        ⟨31, .report (r.part (q + i))⟩ } } := by
  induction n generalizing q s with
  | zero => simp [enterParts, ← hrec]
  | succ n ih =>
    rw [enterParts]
    by_cases hroom : s.line.groupC.length < 8
    · have hone : enterPart s = { s with
          store := { s.store with records := { r with partsQueued := q + 1 } :: rest }
          line := { s.line with groupC := s.line.groupC ++ [⟨31, .report (r.part q)⟩] } } := by
        have hlt : q < r.partCount := by omega
        have hhas : s.hasRoom .c = true := (s.hasRoom_iff .c).2 hroom
        unfold enterPart
        simp only [hrec]
        rw [if_pos (by simp only [hr, hhas, decide_true, Bool.true_and, Bool.and_true]; exact decide_eq_true hlt)]
        exact (enqueue_waits (by exact h) _ _).trans rfl
      obtain ⟨m, hm⟩ : ∃ m, 8 - s.line.groupC.length = m + 1 := ⟨7 - s.line.groupC.length, by omega⟩
      have hm' : 8 - (s.line.groupC ++ [(⟨31, .report (r.part q)⟩ : Telegram)]).length = m := by
        rw [List.length_append, List.length_singleton]; omega
      rw [hone]
      refine (ih (q + 1) (by rfl) (by exact h) (by omega)).trans ?_
      dsimp only
      rw [hm, hm', Nat.add_min_add_right, List.range_succ_eq_map]
      simp [Nat.add_comm, Nat.add_left_comm]
    · have hnone : enterPart s = s := by
        have hhas : s.hasRoom .c = false := Bool.eq_false_iff.2 fun h => hroom ((s.hasRoom_iff .c).1 h)
        unfold enterPart
        simp only [hrec]
        rw [if_neg (by simp [hhas])]
      have hzero : 8 - s.line.groupC.length = 0 := by omega
      rw [hnone, ih q hrec h (by omega), hzero, Nat.min_zero, Nat.min_zero]

theorem startReport_eq (h : s.line.Waits) : startReport s = s.reported := by
  cases hrec : s.store.records with
  | nil =>
    rw [startReport_idle s (by simp [hrec])]
    simp [State.reported, Store.reporting, hrec]
    rw [← hrec]
  | cons r rest =>
    by_cases hr : r.state = .ready
    · have hstart : startReport s = enterParts r.partCount
          (s.onStore fun st => { st with records := { r with state := .sending, partsQueued := 0 } :: rest }) := by
        unfold startReport
        simp only [hrec, hr, if_true]
      rw [hstart]
      refine (enterParts_waits { r with state := .sending } rest rfl r.partCount 0 (by rfl) (by exact h)
        (Nat.le_of_eq (Nat.zero_add _))).trans ?_
      simp [State.reported, Store.reporting, Line.entering, hrec, hr]
      exact fun _ _ _ => rfl
    · rw [startReport_idle s (by simp [hrec, hr])]
      simp [State.reported, Store.reporting, hrec, hr]
      rw [← hrec]
/-! ### The halt -/

/-- A HELD record closed as its window closes it (R100). -/
def SectionRecord.settled (u : Setup) (r : SectionRecord) : SectionRecord := if r.state = .held then r.close u else r

theorem SectionRecord.settled_drainMark (u : Setup) (r : SectionRecord) :
    (r.settled u).summary.drainMark = r.summary.drainMark := by
  unfold SectionRecord.settled; split
  · rw [SectionRecord.close_summary]
  · rfl

/-- The state once the HELD records are closed. -/
def State.settled (s : State) : State :=
  s.onStore fun st => { st with records := st.records.map (SectionRecord.settled s.ctrl.setup) }

/-- The state once the PENDING watch records are removed. -/
def State.withoutPending (s : State) : State :=
  s.onWatch fun w => { w with locals := w.locals.filter fun r => decide (r.state ≠ .pending) }

/-- The state in HALTED, before the section in flight is aborted. -/
def State.halting (s : State) : State := s.onCtrl fun c => { c with station := .halted }

/-- Recording a kind that is not FATAL reads the recorder and the setup alone. -/
theorem record_recorder_congr {k : ErrKind} {t : State} (hr : s.recorder = t.recorder) (hu : s.ctrl.setup = t.ctrl.setup)
    (hf : ¬ s.ctrl.setup.fatal k) : (record k s).recorder = (record k t).recorder := by
  by_cases hq : (s.ctrl.setup.policy k).masked = true ∨ (s.ctrl.setup.policy k).severity = .note
  · rw [record_of_quiet hq, record_of_quiet (hu ▸ hq), State.onRecorder_recorder, State.onRecorder_recorder, hr]
  · obtain ⟨hm, hv⟩ := not_or.1 hq
    have hm : (s.ctrl.setup.policy k).masked = false := by simpa using hm
    have hd : (s.ctrl.setup.policy k).severity = .degraded := by
      cases hc : (s.ctrl.setup.policy k).severity with
      | note => exact absurd hc hv
      | degraded => rfl
      | fatal => exact absurd ⟨hc, hm⟩ hf
    rw [record_of_first hm (.inl hd), record_of_first (hu ▸ hm) (.inl (hu ▸ hd))]
    simp [State.followAttention, Recorder.fill, hr]
/-- The state in which a halt leaves the station. -/
def State.halted (completes : Bool) (noted : Recorder) (s : State) : State :=
  (s.halting.aborted.drained completes noted).settled.reported.withoutPending

/-- A drain whose DRAINED is not dropped leaves the recorder alone. -/
theorem drained_congr {completes : Bool} {r r' : Recorder} (h : s.dropsDrained completes = true → r = r') :
    s.drained completes r = s.drained completes r' := by
  unfold State.drained
  cases hd : s.dropsDrained completes with
  | false => rfl
  | true => rw [h hd]

/-- The entry to HALTED while the line lets nothing begin; `t` is any state with the same recorder and setup. -/
theorem enterHalted_eq {completes : Bool} {t : State} (h : s.line.Waits)
    (hs : s.seq.sweep = .idle → ∀ r ∈ s.store.records, r.state ≠ .sweeping) (hc : s.store.haltCompletes = completes)
    (hn : s.aborted.dropsDrained completes = true → ¬ s.ctrl.setup.fatal .txDropped)
    (hr : s.recorder = t.recorder) (hu : s.ctrl.setup = t.ctrl.setup) :
    enterHalted s = s.halted completes (record .txDropped t).recorder := by
  subst hc
  have ha : abortForHalt s.halting = s.halting.aborted.drained s.store.haltCompletes (record .txDropped t).recorder :=
    (abortForHalt_eq (s := s.halting) h hs hn).trans
      (drained_congr fun hd => record_recorder_congr (s := s.halting.aborted) hr hu (hn hd))
  have hreport := startReport_eq
    (s := (s.halting.aborted.drained s.store.haltCompletes (record .txDropped t).recorder).settled) h
  unfold enterHalted
  dsimp only
  change (closeHeld (abortForHalt s.halting)).onWatch _ = _
  rw [ha]
  change (startReport (State.settled _)).onWatch _ = _
  rw [hreport]
  rfl
end

/-- LOCAL_STOP in RUN: the break is driven, and the station halts. -/
theorem exec_localStop_run {s : State} (hl : s.resetAsserted = false) (hr : s.ctrl.station = .run) :
    exec .localStop s = .next (enterHalted (s.onLine fun l => { l with breakSend := true }).abandoned) := by
  show live localStopFalls s = _
  rw [live_eq s _ hl, localStopFalls, if_pos hr, abandonTx_eq (.inr rfl)]

theorem setRx_idleWait_waits (s : State) : (setRx .idleWait s).line.Waits :=
  .inl (show Receiver.idleWait ≠ .idle by decide)

/-- BREAK_DETECTED: reception, transmission and judgement end, and a station in RUN halts. -/
theorem exec_breakDetected {s : State} (hl : s.resetAsserted = false) :
    exec .breakDetected s = .next (
      let t := (setRx .idleWait s).abandoned.onLine fun l => { l with judging := false }
      if s.ctrl.station = .run then enterHalted t else t) := by
  show live breakSeen s = _
  rw [live_eq s _ hl, breakSeen, abandonTx_eq (setRx_idleWait_waits s)]
  rfl

/-- Settles O47: a halt is an abandoned transmission, an aborted section, a completed drain, closed records and a report. -/
theorem breaksHalt : Obligations.BreaksHalt := by
  refine ⟨?_, fun s hl hs => ⟨?_, fun hx => ?_⟩, fun s hl => live_eq s breakSendEnds hl⟩
  · intro c s hl hr hc hsweep freed left refill owed groupA announced swept kept completes drained full dropped reports
      entered gone hn
    have hcompletes : s.store.haltCompletes = completes := by
      have hkept : (kept.all fun r => !r.summary.drainMark) = s.store.rest.all fun r => !r.summary.drainMark := by
        have hk : kept = s.store.rest.map (SectionRecord.settled s.ctrl.setup) := rfl
        rw [hk, List.all_map]
        refine List.all_congr rfl fun r => ?_
        rw [Function.comp, SectionRecord.settled_drainMark]
      exact congrArg (s.store.swept.any (fun r => r.summary.drainMark) && ·) hkept.symm
    obtain rfl | rfl := hc
    · rw [exec_localStop_run hl hr, enterHalted_eq (s := (s.onLine fun l => { l with breakSend := true }).abandoned) (t := s)
        (.inr rfl) hsweep hcompletes hn rfl rfl]
      rw [show (s.line.breakSend || decide (Instr.localStop = .localStop)) = true by simp,
        show (s.line.judging && decide (Instr.localStop ≠ .breakDetected)) = s.line.judging by simp]
      rfl
    · rw [exec_breakDetected hl]
      dsimp only
      rw [if_pos hr, enterHalted_eq (s := (setRx .idleWait s).abandoned.onLine fun l => { l with judging := false }) (t := s)
        (setRx_idleWait_waits s) hsweep hcompletes hn rfl rfl]
      rw [show (s.line.breakSend || decide (Instr.breakDetected = .localStop)) = s.line.breakSend by simp,
        show (s.line.judging && decide (Instr.breakDetected ≠ .breakDetected)) = false by simp]
      rfl
  · show live localStopFalls s = _
    rw [live_eq s _ hl, localStopFalls, if_neg hs]
  · show live breakSeen s = _
    rw [live_eq s _ hl, breakSeen, abandonTx_kept (setRx .idleWait s) hx]
    exact congrArg Host.Outcome.next (if_neg hs)

end Sys2Proof.Machine

/-! The completion of a sweep: what is done beside the converter, so that a change of the converter may come before it or after it; what the
completion leaves; and GAP_EXPIRY. -/

namespace Sys2Proof.Machine

/-! ### Beside the sweep -/

/-- No record is SWEEPING. -/
def Store.NoneSweeping (st : Store) : Prop := ∀ r ∈ st.records, r.state ≠ .sweeping

/-- The property survives any update of the watch unit and the line, any error recorded, and any update of the store that makes no record
SWEEPING. -/
structure KeptBeside (P : State → Prop) : Prop where
  store : ∀ s f, (s.store.NoneSweeping → (f s.store).NoneSweeping) → P s → P (s.onStore f)
  watch : ∀ s f, P s → P (s.onWatch f)
  line  : ∀ s f, P s → P (s.onLine f)
  rcd   : ∀ s k, P s → P (record k s)

/-- An operation acts beside the sweep and the converter: it is built from those updates, and, with no section in flight, it comes to the
same whether it is done before or after a change of the converter. -/
structure Beside (g : State → State) (s : State) : Prop where
  keeps  : ∀ P : State → Prop, KeptBeside P → P s → P (g s)
  onConv : s.seq.sweep = .idle → ∀ f : Converter → Converter, g (s.onConv f) = (g s).onConv f

section
variable {s : State}

/-- The entry to FAULT, with no section in flight, neither reads nor changes the converter. -/
theorem enterFault_onConv {f : Converter → Converter} (h : s.seq.sweep = .idle) :
    enterFault (s.onConv f) = (enterFault s).onConv f := by
  simp only [enterFault]
  rw [abortSection_idle _ (show ((s.onConv f).onCtrl fun c => { c with station := .fault }).seq.sweep = .idle from h),
    abortSection_idle _ (show (s.onCtrl fun c => { c with station := .fault }).seq.sweep = .idle from h)]
  rfl

/-- The recording of a kind that aborts no section neither reads nor changes the converter. -/
theorem record_onConv {k : ErrKind} {f : Converter → Converter} (h : s.ctrl.setup.fatal k → s.seq.sweep = .idle) :
    record k (s.onConv f) = (record k s).onConv f := by
  obtain ⟨hq, e⟩ | ⟨⟨hm, hv⟩, e⟩ | ⟨⟨hm, hv, hs⟩, e⟩ := record_cases s k <;> rw [e]
  · rw [record_of_quiet (s := s.onConv f) hq]; rfl
  · rw [record_of_first (s := s.onConv f) hm hv]; rfl
  · rw [record_of_fatal (s := s.onConv f) hm hv hs, ← enterFault_onConv (s := (s.onRecorder _).followAttention) (h ⟨hv, hm⟩)]; rfl

/-- Recording a kind leaves a station with no section in flight so, with its sequencer, echo processor and converter as they were. -/
theorem record_idle (k : ErrKind) (h : s.seq.sweep = .idle) :
    (record k s).seq = s.seq ∧ (record k s).echo = s.echo ∧ (record k s).conv = s.conv := by
  obtain ⟨-, e⟩ | ⟨-, e⟩ | ⟨-, e⟩ := record_cases s k <;> rw [e]
  · exact ⟨rfl, rfl, rfl⟩
  · exact ⟨rfl, rfl, rfl⟩
  · rw [enterFault_seq, enterFault_echo, enterFault_conv, abortSection_idle (s.onRecorder _).followAttention h]
    exact ⟨rfl, rfl, rfl⟩

/-- Recording a kind makes no record SWEEPING. -/
theorem record_noneSweeping (k : ErrKind) (h : s.store.NoneSweeping) : (record k s).store.NoneSweeping := by
  obtain ⟨-, e⟩ | ⟨-, e⟩ | ⟨-, e⟩ := record_cases s k <;> rw [e]
  · exact h
  · exact h
  · simp [Store.NoneSweeping]

theorem keptBeside_idle : KeptBeside fun t => t.seq.sweep = .idle where
  store _ _ _ h := h
  watch _ _ h := h
  line _ _ h := h
  rcd _ k h := by rw [(record_idle k h).1]; exact h

namespace Beside

theorem id : Beside (fun t => t) s := ⟨fun _ _ h => h, fun _ _ => rfl⟩

theorem onStore {f : Store → Store} (h : s.store.NoneSweeping → (f s.store).NoneSweeping) : Beside (State.onStore f) s :=
  ⟨fun _ K => K.store s f h, fun _ _ => rfl⟩

theorem onWatch {f : Watch → Watch} : Beside (State.onWatch f) s := ⟨fun _ K => K.watch s f, fun _ _ => rfl⟩

theorem onLine {f : Line → Line} : Beside (State.onLine f) s := ⟨fun _ K => K.line s f, fun _ _ => rfl⟩

theorem record {k : ErrKind} : Beside (record k) s := ⟨fun _ K => K.rcd s k, fun h _ => record_onConv fun _ => h⟩

theorem comp {g h : State → State} (hg : Beside g s) (hh : Beside h (g s)) : Beside (fun t => h (g t)) s where
  keeps P K hs := hh.keeps P K (hg.keeps P K hs)
  onConv hi f := by rw [hg.onConv hi, hh.onConv (hg.keeps _ keptBeside_idle hi)]

/-- The branch an operation takes may be looked up in the state before the converter's change. -/
theorem congr {g h : State → State} (hh : Beside h s) (e : ∀ f : Converter → Converter, g (s.onConv f) = h (s.onConv f)) :
    Beside g s where
  keeps P K hs := by rw [show g s = h s from e fun c => c]; exact hh.keeps P K hs
  onConv hi f := by rw [e, hh.onConv hi, show g s = h s from e fun c => c]

theorem whileRun {g : State → State} (hg : Beside g s) : Beside (whileRun g) s := by
  by_cases hr : s.ctrl.station = .run
  · exact hg.congr fun f => whileRun_run (s.onConv f) g hr
  · exact id.congr fun f => whileRun_other (s.onConv f) g hr

theorem foldl {α : Type} {g : State → α → State} (l : List α) (hg : ∀ t a, Beside (fun x => g x a) t) :
    Beside (fun t => l.foldl g t) s := by
  induction l generalizing s with
  | nil => exact id
  | cons a l ih => exact (hg s a).comp (ih (s := g s a))

/-! What a sweep's completion is built of. -/

theorem offer : Beside offer s where
  keeps P K hs := by obtain ⟨x, e⟩ := offer_eq s; rw [e]; exact K.line _ _ hs
  onConv _ f := by
    unfold Machine.offer
    simp only [State.onConv_line, State.onConv_ctrl, apply_ite (State.onConv f)]
    congr 1
    cases s.ctrl.setup.groupOrder.find? fun g => !(s.line.group g).isEmpty with
    | none => rfl
    | some g => dsimp only; cases s.line.group g <;> rfl

theorem enqueue {g : TxGroup} {t : Telegram} : Beside (enqueue g t) s := by
  by_cases h : ((s.line.group g).isEmpty && decide (s.line.rx = .idle)) = true
  · exact (onLine.comp offer).congr fun f => if_pos h
  · exact onLine.congr fun f => if_neg h

theorem produceA {t : Telegram} : Beside (produceA t) s := by
  by_cases hr : s.hasRoom .a = true
  · exact enqueue.congr fun f => if_pos hr
  by_cases hd : (t.isDrained && decide (Config.owedDrainedMax ≤ (s.watch.owed.filter Telegram.isDrained).length)) = true
  · exact record.congr fun f => (if_neg hr).trans (if_pos hd)
  · exact onWatch.congr fun f => (if_neg hr).trans (if_neg hd)

theorem edgeToSide {sd : Side} {e : EdgeBody} : Beside (edgeToSide sd e) s := by
  cases hn : s.ctrl.setup.neighbour sd with
  | none => exact id.congr fun f => by simp only [Machine.edgeToSide, State.onConv_ctrl, hn]
  | some nb =>
    have hs : Beside (sendEdge nb e) s := by
      by_cases hr : s.hasRoom .b = true
      · exact enqueue.congr fun f => if_pos hr
      · exact record.congr fun f => if_neg hr
    exact hs.congr fun f => by simp only [Machine.edgeToSide, State.onConv_ctrl, hn]

theorem sendEdges {r : SectionRecord} : Beside (sendEdges r) s :=
  ((edgeToSide (sd := .left) (e := r.edgeBody s.ctrl.setup .left)).whileRun.comp
    (edgeToSide (sd := .right) (e := r.edgeBody s.ctrl.setup .right)).whileRun).congr fun _ => rfl

/-! The evaluation of a section. -/

theorem putLocal {r : LocalRecord} : Beside (putLocal r) s := by unfold Machine.putLocal; exact onWatch

theorem agePeers : Beside agePeers s := by unfold Machine.agePeers; exact onWatch

theorem endRecord {n : Nat} {r : LocalRecord} : Beside (endRecord n r) s := by
  cases hid : r.id with
  | none => exact id.congr fun f => by simp only [Machine.endRecord, hid]
  | some i =>
    by_cases ho : r.owed = true
    · exact ((onWatch (f := fun w => { w with owed := w.owed.filter fun t => !t.isRaiseOf i })).comp
        (record (k := .txDropped))).congr fun f => by simp only [Machine.endRecord, hid, if_pos ho]
    · exact (produceA (t := r.alert i true n)).congr fun f => by simp only [Machine.endRecord, hid, if_neg ho]

theorem confirmOrWait {n : Nat} {r : LocalRecord} : Beside (confirmOrWait n r) s := by
  by_cases hc : (if s.watch.corroborates r.first r.last = true then 1 else s.ctrl.setup.watchItem.confirm) ≤ r.confirm
  · cases hid : s.watch.freeId with
    | none => exact (putLocal (r := r)).congr fun f => (if_pos hc).trans (by simp only [State.onConv_watch, hid])
    | some i =>
      let raised : LocalRecord :=
        { r with state := .raised, id := some i, corroborated := r.corroborated || s.watch.corroborates r.first r.last }
      exact ((putLocal (r := raised)).comp ((onWatch (f := fun w => { w with idCounter := (i + 1) % 256 })).comp
        (produceA (t := raised.alert i false n)))).congr fun f => (if_pos hc).trans (by simp only [State.onConv_watch, hid]; rfl)
  · exact putLocal.congr fun f => if_neg hc

theorem advanceMerged {n : Nat} {r : LocalRecord} : Beside (advanceMerged n r) s := by
  have again : Beside (Machine.putLocal
      { r with state := .raised, corroborated := r.corroborated || s.watch.corroborates r.first r.last }) s := putLocal
  cases hr : r.state with
  | pending =>
    exact (confirmOrWait (n := n) (r := { r with confirm := r.confirm + 1 })).congr fun f => by
      simp only [Machine.advanceMerged, hr]
  | raised => exact again.congr fun f => by simp only [Machine.advanceMerged, hr]; rfl
  | easing => exact again.congr fun f => by simp only [Machine.advanceMerged, hr]; rfl

theorem updateGroup {n : Nat} {g : SpanGroup} : Beside (updateGroup n g) s := by
  cases hg : g.locals with
  | nil => exact id.congr fun f => by simp only [Machine.updateGroup, hg]
  | cons r rest =>
    exact ((onWatch.comp (foldl _ fun _ _ => endRecord.whileRun)).comp advanceMerged.whileRun).congr fun f => by
      simp only [Machine.updateGroup, hg]; rfl

theorem easeRecord {n c : Nat} {r : LocalRecord} : Beside (easeRecord n c r) s := by
  by_cases hc : s.ctrl.setup.watchItem.clearCount ≤ c
  · exact (onWatch.comp endRecord).congr fun f => if_pos hc
  · exact onWatch.congr fun f => if_neg hc

theorem moveUnmatched {n : Nat} {bins : List BinRecord} {r : LocalRecord} : Beside (moveUnmatched n bins r) s := by
  by_cases hv : (r.viewed bins).isEmpty = true
  · exact id.congr fun f => if_pos hv
  have eased : ∀ c : Nat, Beside (fun t => if ((r.viewed bins).all fun v => decide ((t.ctrl.setup.watchItem.hyst : Int) ≤ v)) = true
      then Machine.easeRecord n c r t else t) s := fun c => by
    by_cases h : ((r.viewed bins).all fun v => decide ((s.ctrl.setup.watchItem.hyst : Int) ≤ v)) = true
    · exact easeRecord.congr fun f => if_pos h
    · exact id.congr fun f => if_neg h
  cases hr : r.state with
  | pending => exact onWatch.congr fun f => (if_neg hv).trans (by simp only [hr]; rfl)
  | raised => exact (eased 1).congr fun f => (if_neg hv).trans (by simp only [hr])
  | easing => exact (eased (r.clearCount + 1)).congr fun f => (if_neg hv).trans (by simp only [hr])

theorem createLocal {n : Nat} {sp : Span} : Beside (createLocal n sp) s := by
  by_cases hc : Config.watchCapacity ≤ s.watch.inUse
  · exact record.congr fun f => if_pos hc
  · exact confirmOrWait.congr fun f => if_neg hc

theorem evaluateSection {n : Nat} {bins : List BinRecord} : Beside (evaluateSection n bins) s :=
  let gathered := gatherGroups (spansOf bins).length (spansOf bins) s.watch.locals
  let fresh := (gathered.1.filter fun g => g.locals.isEmpty).flatMap (·.spans)
  have update := foldl (s := s) gathered.1 fun t g => (updateGroup (s := t) (n := n) (g := g)).whileRun
  have move := fun t => foldl (s := t) gathered.2 fun t r => (moveUnmatched (s := t) (n := n) (bins := bins) (r := r)).whileRun
  have create := fun t => foldl (s := t) fresh fun t sp => (createLocal (s := t) (n := n) (sp := sp)).whileRun
  (((update.comp (move _)).comp (create _)).comp agePeers.whileRun).congr fun _ => rfl

/-! The report. -/

/-- A change of the oldest record's that leaves it its state, or moves it to SENDING. -/
theorem onOldest {r r' : SectionRecord} {rest : List SectionRecord} (h : s.store.records = r :: rest)
    (hr : r'.state = .sweeping → r.state = .sweeping) : Beside (State.onStore fun st => { st with records := r' :: rest }) s :=
  onStore fun hn x hx => by
    obtain rfl | hx := List.mem_cons.1 hx
    · exact fun hx => hn r (by simp [h]) (hr hx)
    · exact hn x (by simp [h, hx])

theorem enterPart : Beside enterPart s := by
  cases hr : s.store.records with
  | nil => exact id.congr fun f => by simp only [Machine.enterPart, State.onConv_store, hr]
  | cons r rest =>
    by_cases hc : (decide (r.state = .sending) && decide (r.partsQueued < r.partCount) && s.hasRoom .c) = true
    · exact ((onOldest (r' := { r with partsQueued := r.partsQueued + 1 }) hr fun h => h).comp enqueue).congr fun f => by
        simp only [Machine.enterPart, State.onConv_store, hr]; exact if_pos hc
    · exact id.congr fun f => by simp only [Machine.enterPart, State.onConv_store, hr]; exact if_neg hc

theorem enterParts (n : Nat) : Beside (enterParts n) s := by
  induction n generalizing s with
  | zero => exact id
  | succ n ih => exact enterPart.comp (ih (s := Machine.enterPart s))

theorem startReport : Beside startReport s := by
  cases hr : s.store.records with
  | nil => exact id.congr fun f => by simp only [Machine.startReport, State.onConv_store, hr]
  | cons r rest =>
    by_cases hc : r.state = .ready
    · exact ((onOldest (r' := { r with state := .sending, partsQueued := 0 }) hr nofun).comp (enterParts r.partCount)).congr
        fun f => by simp only [Machine.startReport, State.onConv_store, hr]; exact if_pos hc
    · exact id.congr fun f => by simp only [Machine.startReport, State.onConv_store, hr]; exact if_neg hc

end Beside

/-! ### The completion of a sweep -/

/-- What R95 does with a record that has become HELD: its edges, the held peer edges, its evaluation, its window and its report. -/
def settleRecord (r : SectionRecord) (s : State) : State :=
  let s := sendEdges r s
  let s := s.onStore fun st => st.modify r.number (SectionRecord.applyHeldEdges s.ctrl.setup s.ctrl.ownNumber.toNat)
  let s := whileRun (evaluateSection r.number r.bins) s
  startReport (s.onStore fun st => st.modify r.number (SectionRecord.startWindow s.ctrl.setup))

/-- The SWEEPING record, if there is one, becomes HELD and is settled. -/
def settleSwept (s : State) : State :=
  match s.store.sweeping with
  | none => s
  | some r => settleRecord r (s.onSweeping fun r => { r with state := .held })

theorem completeSweep_eq (s : State) : completeSweep s = settleSwept (closeSweep s) := rfl

/-- A held peer edge applied, or none, leaves a record its state. -/
theorem SectionRecord.applyHeld_state (u : Setup) (own : Nat) (sd : Side) (r : SectionRecord) :
    (r.applyHeld u own sd).state = r.state := by
  unfold SectionRecord.applyHeld
  split
  · cases sd <;> rfl
  · rfl

theorem SectionRecord.applyHeldEdges_state (u : Setup) (own : Nat) (r : SectionRecord) :
    (r.applyHeldEdges u own).state = r.state :=
  (SectionRecord.applyHeld_state u own .right _).trans (SectionRecord.applyHeld_state u own .left r)

/-- The start of its window leaves a record its state, or makes it READY. -/
theorem SectionRecord.startWindow_state (u : Setup) (r : SectionRecord) :
    (r.startWindow u).state = r.state ∨ (r.startWindow u).state = .ready := by
  unfold SectionRecord.startWindow
  split
  · exact .inr rfl
  · split
    · split
      · exact .inr rfl
      · exact .inl rfl
    · exact .inl rfl
    · exact .inl rfl

/-- A change of the records of a number that makes none of them SWEEPING. -/
theorem Store.NoneSweeping.modify {st : Store} {n : Nat} {f : SectionRecord → SectionRecord}
    (hf : ∀ r, r.state ≠ .sweeping → (f r).state ≠ .sweeping) (h : st.NoneSweeping) : (st.modify n f).NoneSweeping := by
  intro x hx
  obtain ⟨r, hr, rfl⟩ := List.mem_map.1 hx
  split
  · exact hf r (h r hr)
  · exact h r hr

theorem Beside.settleRecord {r : SectionRecord} : Beside (settleRecord r) s := by
  have edges : ∀ t : State, Beside (fun t => t.onStore fun st =>
      st.modify r.number (SectionRecord.applyHeldEdges t.ctrl.setup t.ctrl.ownNumber.toNat)) t := fun t =>
    (onStore (f := fun st => st.modify r.number (SectionRecord.applyHeldEdges t.ctrl.setup t.ctrl.ownNumber.toNat))
      (.modify fun r hr => by rwa [SectionRecord.applyHeldEdges_state])).congr fun _ => rfl
  have window : ∀ t : State, Beside (fun t => t.onStore fun st =>
      st.modify r.number (SectionRecord.startWindow t.ctrl.setup)) t := fun t =>
    (onStore (f := fun st => st.modify r.number (SectionRecord.startWindow t.ctrl.setup)) (.modify fun r hr => by
      obtain e | e := r.startWindow_state t.ctrl.setup <;> rw [e]
      · exact hr
      · nofun)).congr fun _ => rfl
  exact (((sendEdges.comp (edges _)).comp evaluateSection.whileRun).comp (window _)).comp startReport

/-- The records once the SWEEPING ones are HELD. -/
theorem onSweeping_held_noneSweeping (s : State) :
    (s.onSweeping fun r => { r with state := .held }).store.NoneSweeping := by
  intro x hx
  obtain ⟨r, -, rfl⟩ := List.mem_map.1 hx
  split
  · nofun
  · assumption

theorem keptBeside_noneSweeping : KeptBeside fun t => t.store.NoneSweeping where
  store _ _ hf h := hf h
  watch _ _ h := h
  line _ _ h := h
  rcd _ k h := record_noneSweeping k h

/-- No record is SWEEPING once the sweep has completed. -/
theorem settleSwept_noneSweeping (s : State) : (settleSwept s).store.NoneSweeping := by
  unfold settleSwept
  split
  next hn => exact fun r hr => by simpa using List.find?_eq_none.1 hn r hr
  next r _ => exact Beside.settleRecord.keeps _ keptBeside_noneSweeping (onSweeping_held_noneSweeping s)

theorem Beside.settleSwept : Beside settleSwept s := by
  cases hr : s.store.sweeping with
  | none => exact id.congr fun f => by simp only [Machine.settleSwept, State.onConv_store, hr]
  | some r =>
    have held : Beside (State.onSweeping fun r => { r with state := .held }) s := by
      unfold State.onSweeping; exact onStore fun _ => onSweeping_held_noneSweeping s
    exact (held.comp (settleRecord (r := r))).congr fun f => by simp only [Machine.settleSwept, State.onConv_store, hr]

end

/-- What the completion of a sweep leaves unchanged, once the sweep is closed. -/
theorem keptBeside_frame (t : State) (hi : t.seq.sweep = .idle) : KeptBeside fun x =>
    (x.seq = t.seq ∧ x.echo = t.echo ∧ x.conv = t.conv) ∧ x.env = t.env ∧ x.odo.pos = t.odo.pos ∧ x.ctrl.setup = t.ctrl.setup where
  store _ _ _ h := h
  watch _ _ h := h
  line _ _ h := h
  rcd x k h := by
    obtain ⟨⟨hseq, hecho, hconv⟩, hrest⟩ := h
    obtain ⟨eseq, eecho, econv⟩ := record_idle k (by rw [hseq, hi])
    rw [eseq, eecho, econv, record_env, record_pos, record_setup]
    exact ⟨⟨hseq, hecho, hconv⟩, hrest⟩

/-- Sweep completion: the sequencer and the echo processor are at rest, a section scan goes on as a periodic one, and neither the envelope,
the odometer nor the setup changes. -/
theorem completeSweep_frame (s : State) :
    ((completeSweep s).seq = { s.seq with groups := [], sweep := .idle, fixed := none, rows := 0, cols := 0 }
      ∧ (completeSweep s).echo = { acceptance := none, geometry := none }
      ∧ (completeSweep s).conv = { s.conv with scan := if s.conv.scan = .sectionScan then .periodic else s.conv.scan })
    ∧ (completeSweep s).env = s.env ∧ (completeSweep s).odo.pos = s.odo.pos ∧ (completeSweep s).ctrl.setup = s.ctrl.setup := by
  obtain ⟨⟨hseq, hecho, hconv⟩, hrest⟩ :=
    Beside.settleSwept.keeps _ (keptBeside_frame (closeSweep s) rfl) ⟨⟨rfl, rfl, rfl⟩, rfl, rfl, rfl⟩
  refine ⟨⟨hseq, hecho, hconv.trans ?_⟩, hrest⟩
  show (if s.conv.scan = .sectionScan then { s.conv with scan := .periodic } else s.conv) = _
  split <;> rfl

theorem completeSweep_noneSweeping (s : State) : (completeSweep s).store.NoneSweeping := settleSwept_noneSweeping _

/-- Sweep completion reads the sweep through its close alone, and a change of the converter passes through it. -/
theorem completeSweep_onConv {s t : State} {f : Converter → Converter} (h : closeSweep t = (closeSweep s).onConv f) :
    completeSweep t = (completeSweep s).onConv f := by
  rw [completeSweep_eq, h, Beside.settleSwept.onConv rfl, completeSweep_eq]

/-! ### GAP_EXPIRY -/

theorem startGroup_some {s : State} {k : Nat} {g : FiringGroup} (h : s.seq.groups[k]? = some g) : startGroup k s = { s with
    seq := { s.seq with sweep := .dwell k, rows := g.rows, cols := g.cols }
    echo := { s.echo with acceptance := some (g.members.map fun e => ⟨e, [], false⟩) } } := by
  simp only [startGroup, h]; rfl

theorem startGroup_past {s : State} {k : Nat} (h : s.seq.groups.length ≤ k) : startGroup k s = completeSweep s := by
  simp only [startGroup, List.getElem?_eq_none h]

theorem startGroup_setup (k : Nat) (s : State) : (startGroup k s).ctrl.setup = s.ctrl.setup := by
  unfold startGroup
  split
  · exact (completeSweep_frame s).2.2.2
  · rfl

theorem exec_gapExpiry {s : State} {k : Nat} (hl : s.resetAsserted = false) (hk : s.seq.sweep = .gap k) :
    exec .gapExpiry s = .next (startGroup (k + 1) s) := by
  show live gapExpired s = _
  rw [live_eq s _ hl]
  simp only [gapExpired, hk]

theorem exec_gapExpiry_last {s : State} {k : Nat} (hl : s.resetAsserted = false) (hk : s.seq.sweep = .gap k)
    (hlast : s.seq.groups.length ≤ k + 1) : exec .gapExpiry s = .next (completeSweep s) := by
  rw [exec_gapExpiry hl hk, startGroup_past hlast]

/-- Settles O21: the group at the next place starts, or the sweep completes. -/
theorem gapExpiryGoesOn : Obligations.GapExpiryGoesOn := by
  intro s k hl hk
  refine ⟨fun g hg => by rw [exec_gapExpiry hl hk, startGroup_some hg], fun hlast => ?_⟩
  obtain ⟨⟨hseq, hecho, hconv⟩, henv, hpos, hsetup⟩ := completeSweep_frame s
  exact ⟨_, exec_gapExpiry_last hl hk hlast, hseq, hecho, hconv, henv, hpos, hsetup, completeSweep_noneSweeping s⟩

end Sys2Proof.Machine

/-! The converter: its settling and completions, the cant and its rounding, and the start of a sweep by CANT_COMPLETION. -/

namespace Sys2Proof.Machine

/-! ### The converter's events -/

section
variable {s : State} {a : Aux}

theorem Converter.converts_eq {c : Converter} {ch : Channel} (h : c.work = some ⟨ch, .converting⟩) : c.converts ch = true :=
  decide_eq_true h

theorem settleChannel_eq (ch : Channel) (ha : s.ctrl.setup.aux = some a) :
    settleChannel ch s = s.onConv fun c => { c with work := some ⟨ch, .settling (a.settle ch)⟩ } := by
  simp only [settleChannel, ha]

/-- SUPPLY_WEAK on a code: entered below SUP_LO, left at SUP_LO + SUP_HYST (R25). -/
def Aux.weakAfter (a : Aux) (weak : Bool) (code : Nat) : Bool :=
  if weak then decide (code < a.supLo + a.supHyst) else decide (code < a.supLo)

/-- OVER_TEMP on a code: entered at TEMP_HI, left below TEMP_HI − TEMP_HYST (R26). -/
def Aux.hotAfter (a : Aux) (hot : Bool) (code : Nat) : Bool :=
  if hot then decide ((a.tempHi : Int) - a.tempHyst ≤ code) else decide (a.tempHi ≤ code)

theorem takeSupply_eq (a : Aux) (code : Nat) (s : State) : takeSupply a code s =
    if a.weakAfter s.conv.supplyWeak code && !s.conv.supplyWeak then
      record .supplyWeak (s.onConv fun c => { c with supplyWeak := a.weakAfter s.conv.supplyWeak code })
    else s.onConv fun c => { c with supplyWeak := a.weakAfter s.conv.supplyWeak code } := by
  have same : ∀ b, s.conv.supplyWeak = b → s = s.onConv fun c => { c with supplyWeak := b } := by rintro _ rfl; rfl
  unfold takeSupply Aux.weakAfter
  cases hw : s.conv.supplyWeak
  · by_cases hc : code < a.supLo <;> simp [hc, ← same _ hw]
  · by_cases hc : a.supLo + a.supHyst ≤ code
    · simp [hc, not_lt.2 hc]
    · simp [hc, not_le.1 hc, ← same _ hw]

theorem takeTemp_eq (a : Aux) (code : Nat) (s : State) : takeTemp a code s =
    if a.hotAfter s.conv.overTemp code && !s.conv.overTemp then
      record .overTemp (s.onConv fun c => { c with overTemp := a.hotAfter s.conv.overTemp code })
    else s.onConv fun c => { c with overTemp := a.hotAfter s.conv.overTemp code } := by
  have same : ∀ b, s.conv.overTemp = b → s = s.onConv fun c => { c with overTemp := b } := by rintro _ rfl; rfl
  unfold takeTemp Aux.hotAfter
  cases hw : s.conv.overTemp
  · by_cases hc : a.tempHi ≤ code <;> simp [hc, ← same _ hw]
  · by_cases hc : (code : Int) < (a.tempHi : Int) - a.tempHyst
    · simp [hc, not_le.2 hc]
    · simp [hc, not_lt.1 hc, ← same _ hw]

/-- An effect followed by the record of a kind, or not, leaves the setup alone. -/
theorem ite_record_setup {p : Prop} [Decidable p] {k : ErrKind} {t : State} :
    (if p then record k t else t).ctrl.setup = t.ctrl.setup := by
  split
  · exact record_setup t k
  · rfl

end

/-- Settles O15: each event is its effect, with the conditions judged as `takeSupply_eq` and `takeTemp_eq` say. -/
theorem converterEvents : Obligations.ConverterEvents := by
  refine ⟨fun s ch micros hl hw => ?_, fun s a hl ha hr => ?_, fun s a code hl ha hw => ?_, fun s a code hl ha hw => ?_⟩
  · show live settleExpired s = _
    rw [live_eq s _ hl]
    simp only [settleExpired, hw]; rfl
  · show live intervalExpired s = _
    rw [live_eq s _ hl, intervalExpired, if_pos hr]
    refine congrArg Host.Outcome.next ?_
    by_cases hi : s.conv.scan = .idle
    · rw [if_pos hi]; exact (if_pos hi).trans (settleChannel_eq .cant ha)
    · rw [if_neg hi]; exact if_neg hi
  · intro weak judged told
    show live (supplyCompleted code) s = _
    rw [live_eq s _ hl]
    simp only [supplyCompleted, ha, if_pos (Converter.converts_eq hw)]
    rw [takeSupply_eq, settleChannel_eq (a := a) .temp (by rw [ite_record_setup]; exact ha)]
    rfl
  · intro hot judged told
    show live (tempCompleted code) s = _
    rw [live_eq s _ hl]
    simp only [tempCompleted, ha, if_pos (Converter.converts_eq hw)]
    rw [takeTemp_eq]
    rfl

/-! ### The cant -/

/-- The rounding away from zero is to a nearest integer, and an exact half goes away from zero (00_scope.md, Roundings). -/
theorem roundHalfAway_nearest (p : Int) {q : Nat} (hq : 1 ≤ q) :
    2 * |(q : Int) * roundHalfAway p q - p| ≤ q
      ∧ (2 * |(q : Int) * roundHalfAway p q - p| = q → |p| < |(q : Int) * roundHalfAway p q|) := by
  have hdiv := Nat.div_add_mod (2 * p.natAbs + q) (2 * q)
  have hmod := Nat.mod_lt (2 * p.natAbs + q) (show 0 < 2 * q by omega)
  simp only [roundHalfAway, Int.abs_eq_natAbs]
  generalize (2 * p.natAbs + q) / (2 * q) = n at *
  generalize hm : q * n = m at *
  have hdiv : 2 * m + (2 * p.natAbs + q) % (2 * q) = 2 * p.natAbs + q := by rw [← hm, ← Nat.mul_assoc]; exact hdiv
  have hm : (q : Int) * n = m := by exact_mod_cast hm
  by_cases hp : p < 0
  · simp only [if_pos hp, Int.mul_neg, hm]; omega
  · simp only [if_neg hp, hm]; omega

/-- A product of a difference of codes and a gain, both within their ranges, rounds within −65,520..65,520. -/
theorem rawCant_bounds {a : Aux} (ha : a.inRange) (code : BitVec 12) :
    -65520 ≤ rawCant a code.toNat ∧ rawCant a code.toNat ≤ 65520 := by
  obtain ⟨hzero, ⟨hlo, hhi⟩, -⟩ := ha
  have hcode := code.isLt
  have hp : |((code.toNat : Int) - a.cantZero) * a.cantGain| ≤ 4095 * 4096 := by
    rw [abs_mul]
    exact mul_le_mul (abs_le.2 (by omega)) (abs_le.2 (by omega)) (abs_nonneg _) (by omega)
  obtain ⟨hnear, -⟩ := roundHalfAway_nearest (((code.toNat : Int) - a.cantZero) * a.cantGain) (q := 256) (by omega)
  unfold rawCant
  generalize roundHalfAway _ 256 = raw at *
  obtain ⟨hlow, hhigh⟩ := abs_le.1 hp
  have hnear : |((256 : Nat) : Int) * raw - ((code.toNat : Int) - a.cantZero) * a.cantGain| ≤ 128 := by omega
  obtain ⟨hnlow, hnhigh⟩ := abs_le.1 hnear
  omega

theorem takeCant_setup (a : Aux) (code : Nat) (s : State) : (takeCant a code s).ctrl.setup = s.ctrl.setup := by
  unfold takeCant
  dsimp only
  split
  · rfl
  · exact record_setup _ _

theorem takeCant_table (a : Aux) (code : Nat) (s : State) : (takeCant a code s).seq.table = s.seq.table := by
  unfold takeCant
  dsimp only
  split
  · rfl
  · exact record_table _ _

/-- A recorded kind starts no section scan, and leaves none waiting for its cant that was not. -/
theorem record_waits {k : ErrKind} {s : State}
    (h : (record k s).conv.scan = .sectionScan ∧ (record k s).seq.sweep = .waiting) :
    s.conv.scan = .sectionScan ∧ s.seq.sweep = .waiting := by
  obtain ⟨-, e⟩ | ⟨-, e⟩ | ⟨-, e⟩ := record_cases s k <;> rw [e] at h
  · exact h
  · exact h
  · rw [enterFault_seq, abortSection_sweep] at h; exact absurd h.2 nofun

theorem takeCant_waits {a : Aux} {code : Nat} {s : State}
    (h : (takeCant a code s).conv.scan = .sectionScan ∧ (takeCant a code s).seq.sweep = .waiting) :
    s.conv.scan = .sectionScan ∧ s.seq.sweep = .waiting := by
  unfold takeCant at h
  dsimp only at h
  split at h
  · exact h
  · exact record_waits (s := s.onConv _) h

/-- CANT_COMPLETION of a conversion: the cant, the sweep where a section scan waits for it, then SUPPLY settles. -/
theorem exec_cantCompletion {s : State} {a : Aux} {code : BitVec 12} (hl : s.resetAsserted = false)
    (ha : s.ctrl.setup.aux = some a) (hw : s.conv.work = some ⟨.cant, .converting⟩) :
    exec (.cantCompletion code) s = .next (
      let t := takeCant a code.toNat s
      settleChannel .supply (if t.conv.scan = .sectionScan ∧ t.seq.sweep = .waiting then startSweep t else t)) := by
  show live (cantCompleted code) s = _
  rw [live_eq s _ hl]
  simp only [cantCompleted, ha, if_pos (Converter.converts_eq hw)]

/-- Settles O16: the rounding is nearest and its bounds follow, and without a waiting section scan no sweep starts. -/
theorem cantOfCode : Obligations.CantOfCode := by
  refine ⟨fun a code ha => ?_, fun s a code hl ha hw hn => ?_⟩
  · intro p raw cant
    obtain ⟨hnear, hhalf⟩ := roundHalfAway_nearest p (q := 256) (by omega)
    obtain ⟨hlo, hhi⟩ := rawCant_bounds ha code
    obtain ⟨-, -, hlim, -⟩ := ha
    have hcant : cant = max (-(a.cantLim : Int)) (min raw a.cantLim) := rfl
    refine ⟨hnear, hhalf, hlo, hhi, ?_⟩
    omega
  · intro raw taken told
    have hset := takeCant_setup a code.toNat s
    rw [exec_cantCompletion hl ha hw]
    simp only [if_neg fun h => hn (takeCant_waits h)]
    rw [settleChannel_eq .supply ((congrArg Setup.aux hset).trans ha)]
    rfl

/-! ### The start of a sweep -/

/-- An element to be fired that leads no group is the upper member of a pair (R36). -/
theorem groupLedBy_eq_none {w : SweepItem} {reduced : Bool} {table : Vector Element 64} {fire : Element → Bool} {e : Fin 64}
    (h : groupLedBy w reduced table fire e = none) (hf : fire table[e] = true) : fire table[e + 32] = true ∧ 32 ≤ e.val := by
  simp only [groupLedBy] at h
  rw [if_neg (by rw [hf]; nofun)] at h
  by_cases hp : (w.pairing && !reduced && fire table[e + 32]) = true
  · rw [if_pos hp] at h
    refine ⟨(Bool.and_eq_true_iff.1 hp).2, Nat.not_lt.1 fun hlt => ?_⟩
    rw [if_pos hlt] at h
    cases h
  · rw [if_neg hp] at h
    cases h

/-- The group list is empty only where no element is to be fired: of a pair, the lower member leads (R36). -/
theorem buildGroups_eq_nil {w : SweepItem} {reduced : Bool} {table : Vector Element 64} {fire : Element → Bool}
    (h : buildGroups w reduced table fire = []) (e : Fin 64) : fire table[e] = false := by
  by_contra hf
  rw [Bool.not_eq_false] at hf
  have hnone : ∀ e : Fin 64, groupLedBy w reduced table fire e = none := fun e =>
    List.filterMap_eq_nil_iff.1 h e (List.mem_finRange e)
  obtain ⟨hpartner, he⟩ := groupLedBy_eq_none (hnone e) hf
  obtain ⟨-, hpe⟩ := groupLedBy_eq_none (hnone (e + 32)) hpartner
  omega

theorem fired_eq_zero {w : SweepItem} {reduced : Bool} {table : Vector Element 64} {fire : Element → Bool}
    (h : buildGroups w reduced table fire = []) : (table.toList.filter fire).length = 0 := by
  rw [List.length_eq_zero_iff, List.filter_eq_nil_iff]
  intro x hx
  obtain ⟨i, hi, rfl⟩ := List.mem_iff_getElem.1 hx
  have hf := buildGroups_eq_nil h ⟨i, by simpa using hi⟩
  simpa using hf

/-- CANT_CLAMP not being FATAL, taking the cant changes the cant and the recorder alone. -/
theorem takeCant_notFatal {a : Aux} {code : Nat} {s : State} (h : ¬ s.ctrl.setup.fatal .cantClamp) :
    ∃ f, takeCant a code s = (s.onConv fun c => { c with cant := limitCant a (rawCant a code) }).onRecorder f := by
  unfold takeCant
  dsimp only
  split
  · exact ⟨fun r => r, rfl⟩
  · exact record_notFatal (s.onConv _) .cantClamp h

/-- A change of the converter after the cant is taken might as well come before CANT_CLAMP is recorded. -/
theorem takeCant_onConv {a : Aux} {code : Nat} {s : State} {f : Converter → Converter} (h : ¬ s.ctrl.setup.fatal .cantClamp) :
    (takeCant a code s).onConv f =
      let taken := (s.onConv fun c => { c with cant := limitCant a (rawCant a code) }).onConv f
      if limitCant a (rawCant a code) = rawCant a code then taken else record .cantClamp taken := by
  unfold takeCant
  dsimp only
  rw [apply_ite (State.onConv _), ← record_onConv (s := s.onConv _) fun hc => absurd hc h]

/-- The state in which the groups of a sweep of a section start: the counts written, the group list built, the geometry handed over. -/
def sweepBegun (h : Head) (w : SweepItem) (table : Vector Element 64) (s : State) : State :=
  let fire := toFire s.ctrl.setup h s.conv.cant
  ((s.onSweeping (SectionRecord.onSummary fun m => { m with sweep := some ⟨s.conv.cant, s.conv.supplyWeak,
    (table.toList.filter fire).length, (table.toList.filter (isExcluded s.ctrl.setup h s.conv.cant)).length⟩ })).onSeq fun q =>
      { q with groups := buildGroups w s.conv.supplyWeak table fire, fixed := some ⟨s.conv.cant, s.conv.supplyWeak⟩ }).onEcho
    fun x => { x with geometry := some ⟨s.conv.cant, (headOrigin h s.conv.cant).1, (headOrigin h s.conv.cant).2,
      table.toList.map (beamAngle h s.conv.cant)⟩ }

theorem startSweep_eq {s : State} {h : Head} {w : SweepItem} {table : Vector Element 64} (hh : s.ctrl.setup.head = some h)
    (hw : s.ctrl.setup.sweep = some w) (ht : s.seq.table = some table) : startSweep s = startGroup 0 (sweepBegun h w table s) := by
  simp only [startSweep, hh, hw, ht]; rfl

/-- CANT_COMPLETION of a section scan that waits for its cant: the first group starts, or the sweep completes; then SUPPLY settles. -/
theorem exec_cantCompletion_starts {s : State} {a : Aux} {code : BitVec 12} {h : Head} {w : SweepItem} {table : Vector Element 64}
    (hl : s.resetAsserted = false) (ha : s.ctrl.setup.aux = some a) (hw : s.conv.work = some ⟨.cant, .converting⟩)
    (hh : s.ctrl.setup.head = some h) (hsw : s.ctrl.setup.sweep = some w) (ht : s.seq.table = some table)
    (hwait : (takeCant a code.toNat s).conv.scan = .sectionScan ∧ (takeCant a code.toNat s).seq.sweep = .waiting) :
    exec (.cantCompletion code) s = .next ((startGroup 0 (sweepBegun h w table (takeCant a code.toNat s))).onConv fun c =>
      { c with work := some ⟨.supply, .settling a.supSettle⟩ }) := by
  have hset := takeCant_setup a code.toNat s
  rw [exec_cantCompletion hl ha hw]
  dsimp only
  rw [if_pos hwait, startSweep_eq (by rw [hset]; exact hh) (by rw [hset]; exact hsw) (by rw [takeCant_table]; exact ht),
    settleChannel_eq (a := a) .supply (by rw [startGroup_setup]; exact hset ▸ ha)]
  rfl

theorem closeSweep_section {s : State} (h : s.conv.scan = .sectionScan) : closeSweep s = { s with
    seq := { s.seq with groups := [], sweep := .idle, fixed := none, rows := 0, cols := 0 }
    echo := { acceptance := none, geometry := none }
    conv := { s.conv with scan := .periodic } } := by
  have he : (endSweep s).conv.scan = .sectionScan := h
  simp only [closeSweep, endSectionScan, State.onConv, if_pos he]
  rfl

/-- Settles O17: with a group, it starts; without, the completion of the sweep lets the converter's change pass through it, so that it is
that of the last GAP_EXPIRY. -/
theorem cantCompletionStartsSweep : Obligations.CantCompletionStartsSweep := by
  intro s a code h w table hl ha hw hscan hwait hh hsw htab hnf raw cant reduced excluded fire taken told summed
  obtain ⟨f, hf⟩ := takeCant_notFatal (a := a) (code := code.toNat) hnf
  have htold : told = ((s.onConv fun c => { c with cant := cant }).onRecorder f).onConv fun c =>
      { c with work := some ⟨.supply, .settling a.supSettle⟩ } := by
    rw [← hf, takeCant_onConv hnf]; rfl
  have hexec := exec_cantCompletion_starts hl ha hw hh hsw htab (by rw [hf]; exact ⟨hscan, hwait⟩)
  rw [hf] at hexec
  clear_value told
  subst htold
  refine ⟨fun g rest hg => ?_, fun hg => ⟨buildGroups_eq_nil hg, ?_⟩⟩
  · rw [hexec, startGroup_some (g := g) (congrArg (·[0]?) hg), ← hg]
    rfl
  · rw [show summed 0 = summed (table.toList.filter fire).length by rw [fired_eq_zero hg]]
    let begun : State := sweepBegun h w table ((s.onConv fun c => { c with cant := cant }).onRecorder f)
    obtain ⟨⟨hseq, hecho, hconv⟩, -⟩ := completeSweep_frame begun
    refine ⟨(completeSweep begun).onConv fun c => { c with work := some ⟨.supply, .settling a.supSettle⟩ }, ?_, ?_, hseq, hecho, ?_,
      completeSweep_noneSweeping begun⟩
    · rw [hexec, startGroup_past (s := begun) (k := 0) (le_of_eq (congrArg List.length hg))]
    · refine Eq.trans (exec_gapExpiry_last (k := 0) hl rfl (Nat.zero_le _)) (congrArg Host.Outcome.next (completeSweep_onConv ?_))
      rw [closeSweep_section (s := begun) hscan]
      exact closeSweep_section hscan
    · rw [State.onConv_conv, hconv, if_pos (show begun.conv.scan = .sectionScan from hscan)]
      rfl

end Sys2Proof.Machine

/-! SETUP: the fields of each item's record, the setup that storing an item leaves, and the handling of the telegram. -/

namespace Sys2Proof.Machine

/-! ### The bytes of a payload -/

/-- The big-endian number of so many bytes from an offset on (R190). -/
def numberAt (p : List Byte) (off width : Nat) : Nat := ((p.drop off).take width).foldl (fun v b => 256 * v + b.toNat) 0

/-- The two's complement number of so many bytes from an offset on (R190). -/
def signedAt (p : List Byte) (off width : Nat) : Int :=
  if 2 * numberAt p off width < 256 ^ width then (numberAt p off width : Int) else (numberAt p off width : Int) - 256 ^ width

section
variable {p : List Byte} {off : Nat}

theorem numberAt_succ {width : Nat} (h : off + width < p.length) :
    numberAt p off (width + 1) = 256 * numberAt p off width + byteAt p (off + width) := by
  rw [numberAt, List.take_succ_eq_append_getElem (by rw [List.length_drop]; omega), List.foldl_append]
  simp [numberAt, byteAt, h]

theorem numberAt_one (h : off < p.length) : numberAt p off 1 = byteAt p off := by
  rw [numberAt_succ h]; simp [numberAt]

theorem numberAt_two (h : off + 1 < p.length) : numberAt p off 2 = word16At p off := by
  rw [numberAt_succ h, numberAt_one (by omega), word16At, Nat.mul_comm]

theorem numberAt_three (h : off + 2 < p.length) : numberAt p off 3 = word24At p off := by
  rw [numberAt_succ h, numberAt_two (by omega), word24At, Nat.mul_comm]

theorem signedAt_two (h : off + 1 < p.length) : signedAt p off 2 = int16At p off := by
  rw [signedAt, numberAt_two h, int16At, signedOf]
  refine if_congr ?_ rfl rfl
  norm_num; omega

theorem signedAt_three (h : off + 2 < p.length) : signedAt p off 3 = int24At p off := by
  rw [signedAt, numberAt_three h, int24At, signedOf]
  refine if_congr ?_ rfl rfl
  norm_num; omega

/-! ### What each item stores -/

theorem readSurvey_eq (h : p.length = 14) : readSurvey p =
    { spacing := clampNat 1 65535 (numberAt p 1 2)
      countMode := if numberAt p 3 1 = 0 then .x1 else if numberAt p 3 1 = 1 then .x2 else .x4
      tofMin := numberAt p 4 2, ks := clampNat 360000 400000 (numberAt p 6 3), dMin := clampNat 100 20000 (numberAt p 9 2)
      dMax := clampNat 10000 300000 (numberAt p 11 3) } := by
  have hmode : ∀ n : Nat, (match n with | 0 => CountMode.x1 | 1 => .x2 | _ => .x4) = if n = 0 then .x1 else if n = 1 then .x2 else .x4
    | 0 => rfl
    | 1 => rfl
    | _ + 2 => rfl
  simp (disch := omega) only [numberAt_one, numberAt_two, numberAt_three, ← hmode]
  rfl

theorem readHead_eq (h : p.length = 15) : readHead p =
    { mount := numberAt p 1 2, hx := clampInt (-100000) 100000 (signedAt p 3 3), hy := clampInt (-100000) 100000 (signedAt p 6 3)
      gx := clampInt (-100000) 100000 (signedAt p 9 3), gy := clampInt (-100000) 100000 (signedAt p 12 3) } := by
  simp (disch := omega) only [numberAt_two, signedAt_three]
  rfl

theorem readElementCalib_eq (h : off + 4 < p.length) : readElementCalib p off =
    { angle := numberAt p off 2, offset := clampInt (-5000) 5000 (signedAt p (off + 2) 2)
      enabled := (numberAt p (off + 4) 1).testBit 0
      cls := if (numberAt p (off + 4) 1).testBit 1 then .long else .short } := by
  rw [numberAt_two (by omega), signedAt_two (by omega), numberAt_one h]
  rfl

theorem readCalib_eq (h : p.length = 41) : readCalib p = Vector.ofFn fun j : Fin 8 =>
    { angle := numberAt p (1 + 5 * j.val) 2, offset := clampInt (-5000) 5000 (signedAt p (3 + 5 * j.val) 2)
      enabled := (numberAt p (5 + 5 * j.val) 1).testBit 0
      cls := if (numberAt p (5 + 5 * j.val) 1).testBit 1 then .long else .short } := by
  refine congrArg Vector.ofFn (funext fun j => ?_)
  have hj := j.isLt
  rw [readElementCalib_eq (by omega), show 1 + 5 * j.val + 2 = 3 + 5 * j.val by omega,
    show 1 + 5 * j.val + 4 = 5 + 5 * j.val by omega]

theorem readSweep_eq (h : p.length = 7) : readSweep p =
    { dwellShort := clampNat 1 255 (numberAt p 1 1), dwellLong := clampNat 1 255 (numberAt p 2 1), gap := clampNat 1 255 (numberAt p 3 1)
      pairing := (numberAt p 4 1).testBit 0, forwardSuspect := (numberAt p 4 1).testBit 1, ampLo := numberAt p 5 1
      weakLimit := clampNat 1 15 (numberAt p 6 1) } := by
  simp (disch := omega) only [numberAt_one]
  rfl

theorem readNeighbour_eq (h : off < p.length) :
    readNeighbour p off = if numberAt p off 1 ≤ 15 then some (numberAt p off 1) else none := by
  rw [numberAt_one h]; rfl

theorem readBinRange_eq (h : off + 3 < p.length) :
    readBinRange p off = ⟨clampNat 0 1023 (numberAt p off 2), clampNat 0 1023 (numberAt p (off + 2) 2)⟩ := by
  rw [numberAt_two (by omega), numberAt_two h]; rfl

theorem readZones_eq (h : p.length = 18) : readZones p =
    { left := readNeighbour p 1, leftZone := readBinRange p 2, right := readNeighbour p 6, rightZone := readBinRange p 7
      coverage := readBinRange p 11
      basis := if numberAt p 15 1 = 0 then .sections else .time
      window := clampNat 1 (if numberAt p 15 1 = 0 then 32 else 1000) (numberAt p 16 2) } := by
  simp (disch := omega) only [numberAt_one, numberAt_two]
  rfl

theorem readSegment_eq (h : p.length = 11) : readSegment p =
    { b0 := clampNat 0 1023 (numberAt p 1 2), b1 := max (clampNat 0 1023 (numberAt p 1 2)) (clampNat 0 1023 (numberAt p 3 2))
      rs := clampNat 10000 300000 (numberAt p 5 3), re := clampNat 10000 300000 (numberAt p 8 3) } := by
  simp (disch := omega) only [numberAt_two, numberAt_three]
  rfl

theorem readExclusion_eq (h : p.length = 5) : readExclusion p = ⟨numberAt p 1 2, numberAt p 3 2⟩ := by
  simp (disch := omega) only [numberAt_two]
  rfl

theorem readWatch_eq (h : p.length = 9) : readWatch p =
    { confirm := clampNat 1 8 (numberAt p 1 1), clearCount := clampNat 1 8 (numberAt p 2 1), hyst := clampNat 0 2000 (numberAt p 3 2)
      warn := clampNat 0 5000 (numberAt p 5 2), peerAge := clampNat 1 255 (numberAt p 7 1), guard := clampNat 0 16 (numberAt p 8 1) } := by
  simp (disch := omega) only [numberAt_one, numberAt_two]
  rfl

theorem readAux_eq (h : p.length = 19) : readAux p =
    { cantZero := clampNat 0 4095 (numberAt p 1 2), cantGain := clampInt (-4096) 4096 (signedAt p 3 2)
      cantLim := clampNat 0 2731 (numberAt p 5 2), supLo := clampNat 0 4095 (numberAt p 7 2), supHyst := clampNat 0 4095 (numberAt p 9 2)
      tempHi := clampNat 0 4095 (numberAt p 11 2), tempHyst := clampNat 0 4095 (numberAt p 13 2)
      cantSettle := clampNat 1 63 (numberAt p 15 1), supSettle := clampNat 1 63 (numberAt p 16 1)
      tempSettle := clampNat 1 63 (numberAt p 17 1), scanPeriod := clampNat 1 255 (numberAt p 18 1) } := by
  simp (disch := omega) only [numberAt_one, numberAt_two, signedAt_two]
  rfl

theorem readLine_eq (h : p.length = 3) : readLine p = ⟨clampNat 8 255 (numberAt p 1 1), clampNat 0 7 (numberAt p 2 1)⟩ := by
  simp (disch := omega) only [numberAt_one]
  rfl

theorem readFaults_eq (h : p.length = 17) : readFaults p = Vector.ofFn fun k : Fin 16 =>
    { severity := if numberAt p (1 + k.val) 1 % 4 = 0 then .note else if numberAt p (1 + k.val) 1 % 4 = 1 then .degraded else .fatal
      masked := (numberAt p (1 + k.val) 1).testBit 7 } := by
  have hseverity : ∀ n : Nat, (match n with | 0 => Severity.note | 1 => .degraded | _ => .fatal)
      = if n = 0 then .note else if n = 1 then .degraded else .fatal
    | 0 => rfl
    | 1 => rfl
    | _ + 2 => rfl
  refine congrArg Vector.ofFn (funext fun k => ?_)
  have hk := k.isLt
  rw [numberAt_one (by omega), ← hseverity]
  rfl

end

/-! ### The setup after an item is stored -/

section
variable {u : Setup} {p : List Byte}

theorem storeItem_survey (h : byteAt p 0 = 1) : u.storeItem p = { u with survey := some (readSurvey p) } := by
  simp [Setup.storeItem, h]

theorem storeItem_head (h : byteAt p 0 = 2) : u.storeItem p = { u with head := some (readHead p) } := by simp [Setup.storeItem, h]

theorem storeItem_sweep (h : byteAt p 0 = 11) : u.storeItem p = { u with sweep := some (readSweep p) } := by simp [Setup.storeItem, h]

theorem storeItem_zones (h : byteAt p 0 = 12) : u.storeItem p = { u with zones := some (readZones p) } := by simp [Setup.storeItem, h]

theorem storeItem_watch (h : byteAt p 0 = 29) : u.storeItem p = { u with watch := some (readWatch p) } := by simp [Setup.storeItem, h]

theorem storeItem_aux (h : byteAt p 0 = 30) : u.storeItem p = { u with aux := some (readAux p) } := by simp [Setup.storeItem, h]

theorem storeItem_line (h : byteAt p 0 = 31) : u.storeItem p = { u with line := some (readLine p) } := by simp [Setup.storeItem, h]

theorem storeItem_faults (h : byteAt p 0 = 32) : u.storeItem p = { u with faults := some (readFaults p) } := by
  simp [Setup.storeItem, h]

theorem storeItem_calib (k : Fin 8) (h : byteAt p 0 = 3 + k.val) :
    u.storeItem p = { u with calib := u.calib.set k.val (some (readCalib p)) k.isLt } := by
  have hk := k.isLt
  simp only [Setup.storeItem, h]
  rw [if_neg (by omega), if_neg (by omega), dif_pos (by omega)]
  simp only [Nat.add_sub_cancel_left]

theorem storeItem_envelope (k : Fin 12) (h : byteAt p 0 = 13 + k.val) :
    u.storeItem p = { u with envelope := u.envelope.set k.val (some (readSegment p)) k.isLt } := by
  have hk := k.isLt
  simp only [Setup.storeItem, h]
  rw [if_neg (by omega), if_neg (by omega), dif_neg (by omega), if_neg (by omega), if_neg (by omega), dif_pos (by omega)]
  simp only [Nat.add_sub_cancel_left]

theorem storeItem_exclusion (k : Fin 4) (h : byteAt p 0 = 25 + k.val) :
    u.storeItem p = { u with exclusion := u.exclusion.set k.val (some (readExclusion p)) k.isLt } := by
  have hk := k.isLt
  simp only [Setup.storeItem, h]
  rw [if_neg (by omega), if_neg (by omega), dif_neg (by omega), if_neg (by omega), if_neg (by omega), dif_neg (by omega),
    dif_pos (by omega)]
  simp only [Nat.add_sub_cancel_left]

end

/-! ### The handling of SETUP -/

theorem exec_setup {s : State} {x : Received} {rest : List Received} (hl : s.resetAsserted = false)
    (hq : s.line.queue = x :: rest) (hk : x.kind = .setup) (ha : s.ctrl.station.accepts .setup = true)
    (h1 : 1 ≤ x.payload.length) (hlen : ∀ n, itemLength (byteAt x.payload 0) = some n → x.payload.length = 1 + n) :
    exec .setup s = .next (handleSetup x (s.withQueue rest)) := by
  have hadmit : lengthAdmitted x.kind x.payload = true := by
    rw [hk]
    simp only [lengthAdmitted]
    cases hi : itemLength (byteAt x.payload 0) with
    | none => exact decide_eq_true h1
    | some n => exact beq_iff_eq.2 (hlen n hi)
  show live (takeOldest (Received.isKind .setup) handleSetup) s = _
  rw [live_eq s _ hl, takeOldest_handled s _ _ x rest hq (decide_eq_true hk) (by rwa [hk]) hadmit]

theorem itemLength_calib (k : Fin 8) : itemLength (3 + k.val) = some 40 := by revert k; decide

theorem itemLength_envelope (k : Fin 12) : itemLength (13 + k.val) = some 10 := by revert k; decide

theorem itemLength_exclusion (k : Fin 4) : itemLength (25 + k.val) = some 4 := by revert k; decide

/-- The numbers 1..32 name items, and no other (R191). -/
theorem itemLength_isSome_iff {n : Nat} : (itemLength n).isSome = true ↔ 1 ≤ n ∧ n ≤ 32 := by
  refine ⟨itemLength_isSome, fun h => ?_⟩
  obtain ⟨h1, h32⟩ := h
  interval_cases n <;> rfl

/-- An item stored in CONFIG: the setup, its mark, and, where it is the first item 30, the scan interval (R18, R171). -/
theorem storeSetup_eq (p : List Byte) (s : State) : storeSetup p s = { s with
    ctrl := { s.ctrl with
      setup := s.ctrl.setup.storeItem p
      marks := s.ctrl.marks ||| BitVec.twoPow 32 (byteAt p 0 - 1) }
    conv := { s.conv with
      intervalRunning := s.conv.intervalRunning || (decide (byteAt p 0 = 30) && s.ctrl.setup.aux.isNone) } } := by
  have hbit : BitVec.ofNat 32 (2 ^ (byteAt p 0 - 1)) = BitVec.twoPow 32 (byteAt p 0 - 1) :=
    BitVec.eq_of_toNat_eq (by rw [BitVec.toNat_ofNat, BitVec.toNat_twoPow])
  simp only [storeSetup, hbit]
  by_cases hc : (decide (byteAt p 0 = 30) && s.ctrl.setup.aux.isNone) = true
  · rw [if_pos (by simpa using hc), hc, Bool.or_true]
    rfl
  · rw [if_neg (by simpa using hc), Bool.eq_false_iff.2 hc, Bool.or_false]
    rfl

/-- Settles O48: the handler's cases, the record lengths, and, item by item, the record read and stored. -/
theorem setupHandled : Obligations.SetupHandled := by
  refine ⟨fun x rest s hl hq hk h1 hlen => ?_, by decide, fun item h => if_pos (.inr h), fun u p hlen => ?_⟩
  · intro item
    have hexec := fun ha => exec_setup hl hq hk ha h1 hlen
    refine ⟨fun hc hlo hhi => ?_, fun hc hi => ?_, fun hs => ?_⟩
    · rw [hexec (by rw [hc]; rfl), handleSetup, if_pos ⟨hc, itemLength_isSome_iff.2 ⟨hlo, hhi⟩⟩, storeSetup_eq]
      rfl
    · rw [hexec (by rw [hc]; rfl), handleSetup, if_neg fun h => by have := itemLength_isSome h.2; omega]
    · rw [hexec (by obtain h | h := hs <;> rw [h] <;> rfl), handleSetup, if_neg]
      rintro ⟨hc, -⟩
      obtain h | h := hs <;> rw [State.withQueue_ctrl, h] at hc <;> cases hc
  · intro item number signed clamped clampedInt bit range neighbour
    have hlength : ∀ {n m : Nat}, byteAt p 0 = n → itemLength n = some m → p.length = 1 + m :=
      fun h hm => hlen _ (h.symm ▸ hm)
    refine ⟨fun h => ?_, fun h => ?_, fun k h => ?_, fun h => ?_, fun h => ?_, fun k h => ?_, fun k h => ?_, fun h => ?_,
      fun h => ?_, fun h => ?_, fun h => ?_⟩
    · refine (storeItem_survey h).trans ?_
      rw [readSurvey_eq (hlength h rfl)]; rfl
    · refine (storeItem_head h).trans ?_
      rw [readHead_eq (hlength h rfl)]; rfl
    · refine (storeItem_calib k h).trans ?_
      rw [readCalib_eq (hlength h (itemLength_calib k))]; rfl
    · refine (storeItem_sweep h).trans ?_
      rw [readSweep_eq (hlength h rfl)]; rfl
    · refine (storeItem_zones h).trans ?_
      have hl : p.length = 18 := hlength h rfl
      rw [readZones_eq hl, readNeighbour_eq (by omega), readNeighbour_eq (by omega), readBinRange_eq (by omega),
        readBinRange_eq (by omega), readBinRange_eq (by omega)]
      rfl
    · refine (storeItem_envelope k h).trans ?_
      rw [readSegment_eq (hlength h (itemLength_envelope k))]; rfl
    · refine (storeItem_exclusion k h).trans ?_
      rw [readExclusion_eq (hlength h (itemLength_exclusion k))]; rfl
    · refine (storeItem_watch h).trans ?_
      rw [readWatch_eq (hlength h rfl)]; rfl
    · refine (storeItem_aux h).trans ?_
      rw [readAux_eq (hlength h rfl)]; rfl
    · refine (storeItem_line h).trans ?_
      rw [readLine_eq (hlength h rfl)]; rfl
    · refine (storeItem_faults h).trans ?_
      rw [readFaults_eq (hlength h rfl)]; rfl

end Sys2Proof.Machine

/-! The emitter sequencer's tables: dwell adaptation, and the group list with its members. -/

namespace Sys2Proof.Machine

/-- Settles O23: the tests of R44 in order, and R45's table row by row. -/
theorem dwellAdaptation : Obligations.DwellAdaptation := by
  refine ⟨fun _ => rfl, fun ampLo a sat h => if_pos h, fun ampLo a h => ?_, fun x w hx hw => ⟨?_, ?_, ?_⟩, fun x w hx => ⟨?_, ?_, ?_⟩⟩
  · have hlo : ¬ a < ampLo := Nat.not_lt.2 h
    exact ⟨by simp [outcomeOf, hlo], by simp [outcomeOf, hlo]⟩
  · by_cases hrun : x.weakRun + 1 < w
    · simp [Element.adapt, hx, hrun]
    · simp [Element.adapt, hx, hrun, Nat.not_lt.1 hrun]
  all_goals simp [Element.adapt, hx]

/-! ### Leaders and partners (R36)

`fires e` says that element e is to be fired, and `pairs` that pairing is on in a sweep that is not REDUCED. -/

section
variable (pairs : Bool) (fires : Fin 64 → Bool)

/-- The element is paired with the one 32 away, if it is to be fired itself. -/
def pairedAt (e : Fin 64) : Bool := pairs && fires (e + 32)

/-- The element that leads the group of an element to be fired: of a pair, the lower one. -/
def leaderOf (e : Fin 64) : Fin 64 := if pairedAt pairs fires e = true ∧ 32 ≤ e.val then e + 32 else e

/-- The element leads a group. -/
def leads (e : Fin 64) : Bool := fires e && decide (leaderOf pairs fires e = e)

variable {pairs fires}

/-- The element 32 away, above it or below it. -/
theorem val_add_32 (e : Fin 64) : (e + 32).val = if e.val < 32 then e.val + 32 else e.val - 32 := by
  have h : (e + 32).val = (e.val + 32) % 64 := Fin.val_add e 32
  split <;> omega

theorem add_32_add_32 (e : Fin 64) : e + 32 + 32 = e := by
  have h := val_add_32 e
  have h' := val_add_32 (e + 32)
  refine Fin.ext ?_
  split at h <;> split at h' <;> omega

/-- Of two elements to be fired 32 apart, one is paired exactly when the other is. -/
theorem pairedAt_partner {e : Fin 64} (hf : fires e = true) (hp : pairedAt pairs fires e = true) :
    fires (e + 32) = true ∧ pairedAt pairs fires (e + 32) = true := by
  unfold pairedAt at *
  rw [add_32_add_32, hf]
  exact ⟨(Bool.and_eq_true_iff.1 hp).2, by rw [(Bool.and_eq_true_iff.1 hp).1]; rfl⟩

theorem leads_iff {e : Fin 64} : leads pairs fires e = true ↔
    fires e = true ∧ (pairedAt pairs fires e = true → e.val < 32) := by
  have h := val_add_32 e
  have hne : e + 32 ≠ e := fun he => by rw [he] at h; split at h <;> omega
  unfold leads leaderOf
  rw [Bool.and_eq_true, decide_eq_true_eq]
  by_cases hc : pairedAt pairs fires e = true ∧ 32 ≤ e.val
  · rw [if_pos hc]
    exact ⟨fun hl => absurd hl.2 hne, fun hl => absurd (hl.2 hc.1) (Nat.not_lt.2 hc.2)⟩
  · rw [if_neg hc]
    exact ⟨fun hl => ⟨hl.1, fun hp => Nat.not_le.1 fun h32 => hc ⟨hp, h32⟩⟩, fun hl => ⟨hl.1, rfl⟩⟩

/-- The leader of an element to be fired leads a group. -/
theorem leads_leaderOf {e : Fin 64} (hf : fires e = true) : leads pairs fires (leaderOf pairs fires e) = true := by
  have h := val_add_32 e
  rw [leads_iff]
  unfold leaderOf
  split
  next hc =>
    obtain ⟨hf', -⟩ := pairedAt_partner hf hc.1
    exact ⟨hf', fun _ => by split at h <;> omega⟩
  next hc => exact ⟨hf, fun hp => Nat.not_le.1 fun h32 => hc ⟨hp, h32⟩⟩

/-- The elements whose leader is `i`: `i` itself, and where `i` is paired the one 32 above. -/
theorem leaderOf_eq_iff {i e : Fin 64} (hi : leads pairs fires i = true) :
    (fires e = true ∧ leaderOf pairs fires e = i) ↔ e.val = i.val ∨ (pairedAt pairs fires i = true ∧ e.val = i.val + 32) := by
  obtain ⟨hfi, hlow⟩ := leads_iff.1 hi
  constructor
  · rintro ⟨hf, rfl⟩
    unfold leaderOf
    split
    next hc =>
      have h := val_add_32 e
      exact .inr ⟨(pairedAt_partner hf hc.1).2, by split at h <;> omega⟩
    next => exact .inl rfl
  · rintro (h | ⟨hp, h⟩)
    · obtain rfl : e = i := Fin.ext h
      exact ⟨hfi, of_decide_eq_true (Bool.and_eq_true_iff.1 hi).2⟩
    · have hv := val_add_32 i
      rw [if_pos (hlow hp)] at hv
      obtain rfl : e = i + 32 := Fin.ext (h.trans hv.symm)
      obtain ⟨hf', hp'⟩ := pairedAt_partner hfi hp
      refine ⟨hf', ?_⟩
      unfold leaderOf
      rw [if_pos ⟨hp', by omega⟩, add_32_add_32]
end

/-! ### The group list (R36, R37) -/

section
variable (w : SweepItem) (reduced : Bool) (table : Vector Element 64) (fire : Element → Bool)

/-- Pairing is on, and the sweep is not REDUCED. -/
def SweepItem.pairs (w : SweepItem) (reduced : Bool) : Bool := w.pairing && !reduced

/-- The element is to be fired. -/
def firesIn (table : Vector Element 64) (fire : Element → Bool) (e : Fin 64) : Bool := fire table[e]

/-- The group that an element leads, if it leads one (R36, R37). -/
def ledGroup (e : Fin 64) : FiringGroup where
  lead := e.val
  paired := pairedAt (w.pairs reduced) (firesIn table fire) e
  dwell := if pairedAt (w.pairs reduced) (firesIn table fire) e then
      max (elementDwell w reduced table[e]) (elementDwell w reduced table[e + 32])
    else elementDwell w reduced table[e]

theorem groupLedBy_eq (e : Fin 64) : groupLedBy w reduced table fire e =
    if leads (w.pairs reduced) (firesIn table fire) e then some (ledGroup w reduced table fire e) else none := by
  have hl := leads_iff (pairs := w.pairs reduced) (fires := firesIn table fire) (e := e)
  unfold groupLedBy ledGroup
  change (if (!firesIn table fire e) = true then none else
    if pairedAt (w.pairs reduced) (firesIn table fire) e = true then _ else _) = _
  cases hf : firesIn table fire e <;> cases hp : pairedAt (w.pairs reduced) (firesIn table fire) e <;>
    simp [hf, hp] at hl ⊢ <;> simp [hl]

variable {w reduced table fire}

theorem mem_buildGroups {g : FiringGroup} : g ∈ buildGroups w reduced table fire ↔
    ∃ e : Fin 64, leads (w.pairs reduced) (firesIn table fire) e = true ∧ ledGroup w reduced table fire e = g := by
  simp only [buildGroups, List.mem_filterMap, List.mem_finRange, true_and, groupLedBy_eq, Option.ite_none_right_eq_some,
    Option.some.injEq]

theorem FiringGroup.mem_members {g : FiringGroup} {e : Nat} :
    e ∈ g.members ↔ e = g.lead ∨ (g.paired = true ∧ e = g.lead + 32) := by
  unfold FiringGroup.members
  cases g.paired <;> simp

/-- The group led by an element holds exactly the elements to be fired whose leader it is. -/
theorem groupLedBy_holds (i e : Fin 64) : ((groupLedBy w reduced table fire i).map fun g => g.members.contains e.val).getD false =
    (firesIn table fire e && decide (leaderOf (w.pairs reduced) (firesIn table fire) e = i)) := by
  rw [groupLedBy_eq, Bool.eq_iff_iff, Bool.and_eq_true, decide_eq_true_eq]
  split
  next hl => rw [leaderOf_eq_iff hl]; simp [FiringGroup.mem_members, ledGroup]
  next hl => exact ⟨fun h => (nomatch h), fun ⟨hf, he⟩ => absurd (he ▸ leads_leaderOf hf) hl⟩

/-- Every element to be fired is a member of exactly one group, and no other element of any (R36). -/
theorem buildGroups_countP (e : Fin 64) :
    (buildGroups w reduced table fire).countP (fun g => g.members.contains e.val) = if firesIn table fire e then 1 else 0 := by
  have hholds : ∀ i ∈ List.finRange 64,
      ((groupLedBy w reduced table fire i).map fun g => g.members.contains e.val).getD false = true ↔
      (firesIn table fire e && leaderOf (w.pairs reduced) (firesIn table fire) e == i) = true := fun i _ => by
    rw [groupLedBy_holds]; rfl
  have hcount := List.count_eq_one_of_mem (List.nodup_finRange 64)
    (List.mem_finRange (leaderOf (w.pairs reduced) (firesIn table fire) e))
  rw [List.count_eq_countP] at hcount
  unfold buildGroups
  rw [List.countP_filterMap, List.countP_congr hholds]
  cases firesIn table fire e
  · exact congrFun List.countP_false _
  · exact (List.countP_congr fun i _ => by rw [Bool.true_and, beq_iff_eq, beq_iff_eq, eq_comm]).trans hcount

theorem buildGroups_ascend : ((buildGroups w reduced table fire).map (·.lead)).Pairwise (· < ·) := by
  have hlead : ∀ (i : Fin 64) g, groupLedBy w reduced table fire i = some g → g.lead = i.val := by
    intro i g h
    rw [groupLedBy_eq, Option.ite_none_right_eq_some] at h
    rw [← Option.some.inj h.2]; rfl
  rw [List.pairwise_map, buildGroups, List.pairwise_filterMap]
  refine (List.pairwise_lt_finRange 64).imp fun {i j} hij g hg g' hg' => ?_
  rw [hlead i g hg, hlead j g' hg']
  exact hij

theorem getElem_add_32 (table : Vector Element 64) {i : Fin 64} (h : i.val < 32) : table[i + 32] = table[i.val + 32] := by
  simp only [Fin.getElem_fin, val_add_32, if_pos h]

theorem pairedAt_iff (e : Fin 64) : pairedAt (w.pairs reduced) (firesIn table fire) e = true ↔
    w.pairing = true ∧ reduced = false ∧ fire table[e + 32] = true := by
  simp [pairedAt, SweepItem.pairs, firesIn, and_assoc]

/-- The dwell of an element, by its class (R37). -/
theorem elementDwell_eq (x : Element) : elementDwell w reduced x =
    if reduced then w.dwellShort else if x.cls = .short then w.dwellShort else w.dwellLong := by
  unfold elementDwell
  cases x.cls <;> simp
end

/-! ### How many members the groups hold together -/

theorem FiringGroup.members_nodup (g : FiringGroup) : g.members.Nodup := by
  unfold FiringGroup.members
  cases g.paired <;> simp

theorem buildGroups_members_lt {w : SweepItem} {reduced : Bool} {table : Vector Element 64} {fire : Element → Bool}
    {g : FiringGroup} (hg : g ∈ buildGroups w reduced table fire) {e : Nat} (he : e ∈ g.members) : e < 64 := by
  obtain ⟨i, hi, rfl⟩ := mem_buildGroups.1 hg
  obtain rfl | ⟨hp, rfl⟩ := FiringGroup.mem_members.1 he
  · exact i.isLt
  · exact Nat.add_lt_add_right ((leads_iff.1 hi).2 hp) 32

/-- How often an element is a member is in how many groups it is one. -/
theorem count_flatMap_members (gs : List FiringGroup) (e : Nat) :
    (gs.flatMap (·.members)).count e = gs.countP fun g => g.members.contains e := by
  induction gs with
  | nil => rfl
  | cons g gs ih =>
    rw [List.flatMap_cons, List.count_append, List.countP_cons, ih, Nat.add_comm]
    by_cases h : e ∈ g.members
    · simp [List.count_eq_one_of_mem g.members_nodup h, h]
    · simp [List.count_eq_zero_of_not_mem h, h]

/-- No element is a member twice. -/
theorem buildGroups_flatMap_nodup (w : SweepItem) (reduced : Bool) (table : Vector Element 64) (fire : Element → Bool) :
    ((buildGroups w reduced table fire).flatMap (·.members)).Nodup := by
  rw [List.nodup_iff_count_le_one]
  intro e
  by_cases he : e < 64
  · rw [count_flatMap_members, buildGroups_countP ⟨e, he⟩]
    split <;> omega
  · rw [List.count_eq_zero_of_not_mem]
    · exact Nat.zero_le 1
    · rw [List.mem_flatMap]
      exact fun ⟨g, hg, hm⟩ => he (buildGroups_members_lt hg hm)

/-- A sweep fires at most 64 elements. -/
theorem buildGroups_members_le (w : SweepItem) (reduced : Bool) (table : Vector Element 64) (fire : Element → Bool) :
    ((buildGroups w reduced table fire).map fun g => g.members.length).sum ≤ 64 := by
  rw [← List.length_flatMap]
  refine (List.subperm_of_subset (buildGroups_flatMap_nodup w reduced table fire) (l₂ := List.range 64) fun e he => ?_).length_le.trans
    (le_of_eq List.length_range)
  obtain ⟨g, hg, hm⟩ := List.mem_flatMap.1 he
  exact List.mem_range.2 (buildGroups_members_lt hg hm)

/-- Settles O18: each group is the one its leader leads, and each element to be fired has one leader. -/
theorem groupsHoldEachFiredElementOnce : Obligations.GroupsHoldEachFiredElementOnce := by
  intro w reduced table fire groups dwell
  have hdwell : ∀ x, elementDwell w reduced x = dwell x := elementDwell_eq
  have hlow : ∀ g ∈ groups, ∃ i : Fin 64, ledGroup w reduced table fire i = g ∧ (g.paired = true → i.val < 32)
      ∧ leads (w.pairs reduced) (firesIn table fire) i = true := fun g hg => by
    obtain ⟨i, hi, rfl⟩ := mem_buildGroups.1 hg
    exact ⟨i, rfl, (leads_iff.1 hi).2, hi⟩
  refine ⟨buildGroups_ascend, fun e => ?_, fun g hg e he => ?_, fun e => ⟨?_, fun h => ?_⟩, fun g hg hp => ?_,
    fun g hg k hk hp => ?_, fun g hg k hk hp => ?_⟩
  · rw [← List.countP_eq_length_filter]; exact buildGroups_countP e
  · exact buildGroups_members_lt hg he
  · rintro ⟨g, hg, hk, hp⟩
    obtain ⟨i, rfl, hi, hl⟩ := hlow g hg
    obtain ⟨ho, hr, hf⟩ := (pairedAt_iff i).1 hp
    have hk : i.val = e.val := hk
    simp only [getElem_add_32 table (hi hp), hk] at hf
    refine ⟨ho, hr, ?_, hf⟩
    have hfi : fire table[i.val] = true := (leads_iff.1 hl).1
    simpa only [hk] using hfi
  · obtain ⟨ho, hr, hf, hf'⟩ := h
    let i : Fin 64 := ⟨e.val, by omega⟩
    have hi : i.val < 32 := e.isLt
    have hp := (pairedAt_iff (w := w) (reduced := reduced) (table := table) (fire := fire) i).2
      ⟨ho, hr, by rw [getElem_add_32 table hi]; exact hf'⟩
    exact ⟨ledGroup w reduced table fire i, mem_buildGroups.2 ⟨i, leads_iff.2 ⟨hf, fun _ => hi⟩, rfl⟩, rfl, hp⟩
  · obtain ⟨i, rfl, hi, -⟩ := hlow g hg
    exact hi hp
  · obtain ⟨i, rfl, hi, -⟩ := hlow g hg
    obtain rfl : i = k := Fin.ext hk
    rw [← hdwell]
    exact if_neg (Bool.eq_false_iff.1 hp)
  · obtain ⟨i, rfl, hi, -⟩ := hlow g hg
    have hk : i.val = k.val := hk
    rw [← hdwell, ← hdwell]
    refine (if_pos hp).trans ?_
    simp only [getElem_add_32 table (hi hp), Fin.getElem_fin, hk]
end Sys2Proof.Machine

/-! The close of a group at DWELL_EXPIRY: what its members put into the SWEEPING record, given as one change of that record, and what
they make of the element table. -/

namespace Sys2Proof.Machine

/-! ### Changes of the SWEEPING record -/

/-- Two changes of the SWEEPING record, one after the other, when the first leaves it SWEEPING. -/
theorem onSweeping_onSweeping (s : State) {f g : SectionRecord → SectionRecord} (hf : ∀ r, (f r).state = r.state) :
    (s.onSweeping f).onSweeping g = s.onSweeping fun r => g (f r) := by
  simp only [State.onSweeping, State.onStore, List.map_map]
  congr 2
  refine List.map_congr_left fun r _ => ?_
  by_cases hr : r.state = .sweeping
  · simp only [Function.comp, if_pos hr, if_pos ((hf r).trans hr)]
  · simp only [Function.comp, if_neg hr]

theorem onSweeping_id (s : State) : (s.onSweeping fun r => r) = s := by
  simp only [State.onSweeping, State.onStore, ite_self, List.map_id']

/-! ### What the close of a group reads -/

/-- Held echoes with what becomes of each (R58, R62, R63). -/
def disposalsOf (v : Survey) (g : Geometry) (offset : Int) (held : List EchoRecord) : List (EchoRecord × Disposal) :=
  held.map fun e => (e, disposalOf v g offset e)

/-- The valid ones of echoes disposed of, in their order. -/
def validOf (ds : List (EchoRecord × Disposal)) : List ValidEcho :=
  ds.filterMap fun d => match d.2 with
    | .valid x y r => some ⟨d.1, x, y, r⟩
    | .near | .far => none

/-- The items, the geometry, the tables and the WARN limit that the close of a group reads (R56 to R66, R77, R85). -/
structure Closing where
  survey   : Survey
  sweep    : SweepItem
  geometry : Geometry
  table    : Vector Element 64
  warn     : Nat
  env      : List (Option Nat)

/-- The NEAR and FAR echoes counted in a record. -/
def counted (ds : List (EchoRecord × Disposal)) (r : SectionRecord) : SectionRecord :=
  { r with summary := { r.summary with
      near := r.summary.near + (ds.filter fun d => decide (d.2 = .near)).length
      far := r.summary.far + (ds.filter fun d => decide (d.2 = .far)).length } }

namespace Closing
variable (c : Closing)

/-- A member's held echoes with what becomes of each. -/
def disposals (m : Member) : List (EchoRecord × Disposal) :=
  disposalsOf c.survey c.geometry (if h : m.element < 64 then c.table[m.element].offset else 0) m.held

/-- A member's valid echoes, oldest first. -/
def valid (m : Member) : List ValidEcho := validOf (c.disposals m)

/-- The valid echoes forwarded: those under a foreign mark only if suspects are (R65). -/
def forwarded (m : Member) : List ValidEcho := if m.foreign && !c.sweep.forwardSuspect then [] else c.valid m

/-- The point records of a member (R64). -/
def points (m : Member) : List PointRecord := assignRoles m.element m.foreign (c.forwarded m)

/-- A point placed in its bin; the origin has none (R73, R79). -/
def place (bins : List BinRecord) (p : PointRecord) : List BinRecord :=
  match binOf p.x p.y with
  | some b => placeInBins b c.warn (clearance p.r (c.env.getD b none)) p bins
  | none => bins

/-- What is handed back for a member: its last valid echo, forwarded or not (R67). -/
def back (m : Member) : HandBack := ⟨m.element, (c.valid m).getLast?.map fun p => (p.echo.amplitude.toNat, p.echo.saturated)⟩

/-- The SWEEPING record once the members of a group have been disposed of. -/
def closed (ms : List Member) (r : SectionRecord) : SectionRecord :=
  { r with
    bins := (ms.flatMap c.points).foldl c.place r.bins
    summary := { r.summary with
      near := r.summary.near + ((ms.flatMap c.disposals).filter fun d => decide (d.2 = .near)).length
      far := r.summary.far + ((ms.flatMap c.disposals).filter fun d => decide (d.2 = .far)).length
      valid := r.summary.valid + (ms.flatMap c.points).length
      suspectDropped := r.summary.suspectDropped + (ms.map fun m => (c.valid m).length - (c.forwarded m).length).sum } }

@[simp] theorem closed_state (ms : List Member) (r : SectionRecord) : (c.closed ms r).state = r.state := rfl

theorem closed_one (m : Member) (r : SectionRecord) : c.closed [m] r =
    { counted (c.disposals m) r with
      bins := (c.points m).foldl c.place r.bins
      summary := { (counted (c.disposals m) r).summary with
        valid := r.summary.valid + (c.points m).length
        suspectDropped := r.summary.suspectDropped + ((c.valid m).length - (c.forwarded m).length) } } := by
  simp [closed, counted]

/-- Members are disposed of one after another. -/
theorem closed_cons (m : Member) (ms : List Member) (r : SectionRecord) : c.closed (m :: ms) r = c.closed ms (c.closed [m] r) := by
  simp [closed, List.foldl_append, Nat.add_assoc]

/-- The state has the WARN limit and the envelope table. -/
def ReadIn (s : State) : Prop := s.ctrl.setup.watchItem.warn = c.warn ∧ s.env = c.env

/-! ### One member -/

variable {c} {s : State}

theorem foldl_testHeld (v : Survey) (g : Geometry) (o : Int) (es : List EchoRecord) (acc : List ValidEcho) (s : State) :
    es.foldl (testHeld v g o) (acc, s) =
      (acc ++ validOf (disposalsOf v g o es), s.onSweeping (counted (disposalsOf v g o es))) := by
  induction es generalizing acc s with
  | nil => exact congrArg₂ Prod.mk (List.append_nil acc).symm (onSweeping_id s).symm
  | cons e es ih =>
    have hcons : disposalsOf v g o (e :: es) = (e, disposalOf v g o e) :: disposalsOf v g o es := rfl
    rw [List.foldl_cons, testHeld, hcons]
    cases hd : disposalOf v g o e with
    | valid x y r =>
      dsimp only
      rw [ih]
      simp [validOf]
      rfl
    | _ =>
      dsimp only
      rw [ih, onSweeping_onSweeping]
      · simp [validOf, counted, SectionRecord.onSummary, Nat.add_assoc, Nat.add_comm 1]
        rfl
      · exact fun _ => rfl

theorem placePoint_eq (h : c.ReadIn s) (p : PointRecord) : placePoint p s = s.onSweeping fun r =>
    { r with bins := c.place r.bins p, summary := { r.summary with valid := r.summary.valid + 1 } } := by
  obtain ⟨hwarn, henv⟩ := h
  unfold placePoint place
  cases binOf p.x p.y with
  | none => rfl
  | some b =>
    dsimp only
    rw [onSweeping_onSweeping, ← hwarn, ← henv]
    · rfl
    · exact fun _ => rfl

theorem foldl_placePoint (h : c.ReadIn s) (ps : List PointRecord) : ps.foldl (fun s p => placePoint p s) s =
    s.onSweeping fun r =>
      { r with bins := ps.foldl c.place r.bins, summary := { r.summary with valid := r.summary.valid + ps.length } } := by
  induction ps generalizing s with
  | nil => exact (onSweeping_id s).symm
  | cons p ps ih =>
    rw [List.foldl_cons, placePoint_eq h, ih (s := s.onSweeping _) h, onSweeping_onSweeping]
    · simp [Nat.add_assoc, Nat.add_comm 1]
    · exact fun _ => rfl

theorem disposeMember_eq (h : c.ReadIn s) (m : Member) : disposeMember c.survey c.sweep.forwardSuspect c.geometry
    (if h : m.element < 64 then c.table[m.element].offset else 0) m s = (c.back m, s.onSweeping (c.closed [m])) := by
  unfold disposeMember
  rw [foldl_testHeld, List.nil_append]
  dsimp only
  change (if (m.foreign && !c.sweep.forwardSuspect) = true then (c.back m, _) else (c.back m, _)) = _
  by_cases hd : (m.foreign && !c.sweep.forwardSuspect) = true
  · have hf : c.forwarded m = [] := if_pos hd
    rw [if_pos hd, onSweeping_onSweeping]
    · refine congrArg (fun f => (c.back m, s.onSweeping f)) (funext fun r => ?_)
      simp only [closed_one, points, hf, assignRoles]
      rfl
    · exact fun _ => rfl
  · have hf : c.forwarded m = c.valid m := if_neg hd
    rw [if_neg hd, foldl_placePoint (c := c) (by exact h), onSweeping_onSweeping]
    · refine congrArg (fun f => (c.back m, s.onSweeping f)) (funext fun r => ?_)
      simp only [closed_one, points, hf, Nat.sub_self]
      rfl
    · exact fun _ => rfl

/-! ### The whole group -/

theorem foldl_disposeMember (h : c.ReadIn s) (ms : List Member) (backs : List HandBack) :
    ms.foldl (fun (acc : List HandBack × State) m =>
        let offset := if h : m.element < 64 then c.table[m.element].offset else 0
        let d := disposeMember c.survey c.sweep.forwardSuspect c.geometry offset m acc.2
        (acc.1 ++ [d.1], d.2)) (backs, s)
      = (backs ++ ms.map c.back, s.onSweeping (c.closed ms)) := by
  induction ms generalizing s backs with
  | nil => exact congrArg₂ Prod.mk (List.append_nil backs).symm (onSweeping_id s).symm
  | cons m ms ih =>
    rw [List.foldl_cons]
    have hcons : c.closed (m :: ms) = fun r => c.closed ms (c.closed [m] r) := funext (closed_cons c m ms)
    dsimp only
    rw [disposeMember_eq h, ih (s := s.onSweeping _) h, onSweeping_onSweeping s (c.closed_state [m]), List.map_cons,
      List.append_assoc, hcons]
    rfl

end Closing

/-- What the close of a group in a state reads, where all of it is present (R174). -/
def State.closing (s : State) (v : Survey) (w : SweepItem) (g : Geometry) (table : Vector Element 64) : Closing :=
  ⟨v, w, g, table, s.ctrl.setup.watchItem.warn, s.env⟩

theorem closeGroup_eq {s : State} {v : Survey} {w : SweepItem} {g : Geometry} {table : Vector Element 64} {ms : List Member}
    (ha : s.echo.acceptance = some ms) (hg : s.echo.geometry = some g) (hv : s.ctrl.setup.survey = some v)
    (hw : s.ctrl.setup.sweep = some w) (ht : s.seq.table = some table) :
    closeGroup s = (ms.map (s.closing v w g table).back,
      (s.onSweeping ((s.closing v w g table).closed ms)).onEcho fun x => { x with acceptance := none }) := by
  have hfold := Closing.foldl_disposeMember (c := s.closing v w g table) (s := s) ⟨rfl, rfl⟩ ms []
  simp only [State.closing] at hfold
  simp only [closeGroup, ha, hg, hv, hw, ht, hfold]
  rfl

/-! ### The adaptation of the element table -/

/-- The table with the element of a hand-back adapted (R44, R45). -/
def adaptTable (w : SweepItem) (t : Vector Element 64) (b : HandBack) : Vector Element 64 :=
  if h : b.element < 64 then t.set b.element (t[b.element].adapt w.weakLimit (outcomeOf w.ampLo b.last)) h else t

theorem foldl_adaptMember (w : SweepItem) (backs : List HandBack) (s : State) :
    backs.foldl (fun s b => adaptMember w b s) s =
      s.onSeq fun q => { q with table := q.table.map fun t => backs.foldl (adaptTable w) t } := by
  induction backs generalizing s with
  | nil => simp [State.onSeq]
  | cons b backs ih =>
    rw [List.foldl_cons, ih]
    simp only [adaptMember, State.onSeq, Option.map_map]
    rfl

/-- What no adaptation changes of an element. -/
def Element.frame (x : Element) : Nat × Int × Bool := (x.angle, x.offset, x.enabled)

theorem Element.adapt_frame (x : Element) (weakLimit : Nat) (o : EchoOutcome) : (x.adapt weakLimit o).frame = x.frame := by
  unfold Element.adapt
  split
  · split <;> rfl
  all_goals rfl

theorem adaptTable_frame (w : SweepItem) (t : Vector Element 64) (b : HandBack) (i : Fin 64) :
    (adaptTable w t b)[i].frame = t[i].frame := by
  unfold adaptTable
  split
  next hb =>
    by_cases hi : b.element = i.val
    · simp [hi, Element.adapt_frame]
    · simp [Vector.getElem_set_ne, hi]
  next => rfl

theorem foldl_adaptTable_frame (w : SweepItem) (backs : List HandBack) (t : Vector Element 64) (i : Fin 64) :
    (backs.foldl (adaptTable w) t)[i].frame = t[i].frame := by
  induction backs generalizing t with
  | nil => rfl
  | cons b backs ih => rw [List.foldl_cons, ih, adaptTable_frame]

/-! ### DWELL_EXPIRY -/

/-- The close of a group changes the SWEEPING record as its members say, or not at all where something it reads is absent. -/
theorem closeGroup_cases (s : State) : ∃ (backs : List HandBack) (f : SectionRecord → SectionRecord),
    closeGroup s = (backs, (s.onSweeping f).onEcho fun x => { x with acceptance := none })
      ∧ ((∀ r, f r = r) ∨ ∃ (c : Closing) (ms : List Member), s.echo.acceptance = some ms ∧ f = c.closed ms) := by
  by_cases h : ∃ ms g v w table, s.echo.acceptance = some ms ∧ s.echo.geometry = some g ∧ s.ctrl.setup.survey = some v
      ∧ s.ctrl.setup.sweep = some w ∧ s.seq.table = some table
  · obtain ⟨ms, g, v, w, table, ha, hg, hv, hw, ht⟩ := h
    exact ⟨_, _, closeGroup_eq ha hg hv hw ht, .inr ⟨_, ms, ha, rfl⟩⟩
  · refine ⟨[], fun r => r, ?_, .inl fun _ => rfl⟩
    rw [onSweeping_id]
    unfold closeGroup
    split
    next ms g v w table ha hg hv hw ht => exact absurd ⟨ms, g, v, w, table, ha, hg, hv, hw, ht⟩ h
    next => rfl

/-- The adaptation changes the element table, or not at all in a REDUCED sweep and where something it reads is absent. -/
theorem adaptGroup_cases (backs : List HandBack) (s : State) : ∃ f : Vector Element 64 → Vector Element 64,
    adaptGroup backs s = s.onSeq (fun q => { q with table := q.table.map f })
      ∧ ((∀ t, f t = t) ∨ (∀ x, s.seq.fixed = some x → x.reduced = false) ∧ ∃ w, f = fun t => backs.foldl (adaptTable w) t) := by
  have same : s = s.onSeq fun q => { q with table := q.table.map fun t => t } := by simp [State.onSeq]
  unfold adaptGroup
  split
  next w x hw hx =>
    cases hr : x.reduced
    · exact ⟨_, foldl_adaptMember w backs s, .inr ⟨fun y hy => Option.some.inj (hx.symm.trans hy) ▸ hr, w, rfl⟩⟩
    · exact ⟨fun t => t, same, .inl fun _ => rfl⟩
  next => exact ⟨fun t => t, same, .inl fun _ => rfl⟩

/-- The expiry of a group's dwell: the element table and the SWEEPING record change as the group's close says, and the gap begins. -/
theorem dwellExpired_cases {s : State} {k : Nat} (hk : s.seq.sweep = .dwell k) :
    ∃ (f : Vector Element 64 → Vector Element 64) (g : SectionRecord → SectionRecord),
      dwellExpired s = { s.onSweeping g with
        seq := { s.seq with table := s.seq.table.map f, sweep := .gap k, rows := 0, cols := 0 }
        echo := { s.echo with acceptance := none } }
      ∧ ((∀ t, f t = t) ∨ (∀ x, s.seq.fixed = some x → x.reduced = false) ∧
        ∃ (w : SweepItem) (backs : List HandBack), f = fun t => backs.foldl (adaptTable w) t)
      ∧ ((∀ r, g r = r) ∨ ∃ (c : Closing) (ms : List Member), s.echo.acceptance = some ms ∧ g = c.closed ms) := by
  obtain ⟨backs, g, hclose, hg⟩ := closeGroup_cases (s.onSeq fun q => { q with rows := 0, cols := 0 })
  obtain ⟨f, hadapt, hf⟩ := adaptGroup_cases backs (closeGroup (s.onSeq fun q => { q with rows := 0, cols := 0 })).2
  refine ⟨f, g, ?_, hf.imp_right fun ⟨hx, w, e⟩ => ⟨?_, w, backs, e⟩, hg⟩
  · unfold dwellExpired
    simp only [hk]
    rw [show (closeGroup (s.onSeq fun q => { q with rows := 0, cols := 0 })).1 = backs by rw [hclose], hadapt, hclose]
    rfl
  · rw [hclose] at hx
    exact hx

/-- The expiry of a group's dwell where all that its close reads is present. -/
theorem dwellExpired_eq {s : State} {k : Nat} {v : Survey} {w : SweepItem} {g : Geometry} {table : Vector Element 64}
    {f : SweepFixed} {ms : List Member} (hk : s.seq.sweep = .dwell k) (hv : s.ctrl.setup.survey = some v)
    (hw : s.ctrl.setup.sweep = some w) (ht : s.seq.table = some table) (hf : s.seq.fixed = some f)
    (hg : s.echo.geometry = some g) (ha : s.echo.acceptance = some ms) :
    dwellExpired s = { s.onSweeping ((s.closing v w g table).closed ms) with
      seq := { s.seq with
        table := s.seq.table.map fun t => if f.reduced then t else (ms.map (s.closing v w g table).back).foldl (adaptTable w) t
        sweep := .gap k, rows := 0, cols := 0 }
      echo := { s.echo with acceptance := none } } := by
  have hclose := closeGroup_eq (s := s.onSeq fun q => { q with rows := 0, cols := 0 }) ha hg hv hw ht
  unfold dwellExpired
  simp only [hk]
  rw [hclose]
  unfold adaptGroup
  simp only [State.onEcho_ctrl, State.onSweeping_ctrl, State.onSeq_ctrl, State.onEcho_seq, State.onSweeping_seq, State.onSeq_seq,
    hw, hf]
  cases hr : f.reduced
  · rw [if_neg Bool.false_ne_true, foldl_adaptMember, ← hf]; rfl
  · have hid : (s.seq.table.map fun t => if true = true then t else
        (ms.map (s.closing v w g table).back).foldl (adaptTable w) t) = s.seq.table := Option.map_id'
    rw [if_pos rfl, hid, ← hf]; rfl

theorem exec_dwellExpiry {s : State} (hl : s.resetAsserted = false) : exec .dwellExpiry s = .next (dwellExpired s) :=
  live_eq s _ hl

/-- Settles O19: the table keeps each element's frame, and the close of a group changes the bin list and four counts. -/
theorem dwellExpiryClosesGroup : Obligations.DwellExpiryClosesGroup := by
  intro s k hl hk
  obtain ⟨f, g, hexpired, hf, hg⟩ := dwellExpired_cases hk
  have hframe : ∀ (t : Vector Element 64) (i : Fin 64), (f t)[i].frame = t[i].frame := by
    obtain hf | ⟨-, w, backs, rfl⟩ := hf
    · exact fun t i => by rw [hf]
    · exact foldl_adaptTable_frame w backs
  refine ⟨s.seq.table.map f, s.store.records.map fun r => if r.state = .sweeping then g r else r, ?_, ?_, fun x hx hr => ?_,
    List.length_map _, fun i r q hr hq => ?_⟩
  · rw [exec_dwellExpiry hl, hexpired]; rfl
  · cases s.seq.table with
    | none => rfl
    | some t =>
      refine congrArg some (List.ext_getElem (by simp) fun i hi _ => ?_)
      have hi : i < 64 := by simpa using hi
      simpa [Element.frame] using hframe t ⟨i, hi⟩
  · obtain hf | ⟨hx', -⟩ := hf
    · rw [show f = id from funext hf, Option.map_id]; rfl
    · exact absurd hr (by rw [hx' x hx]; exact Bool.false_ne_true)
  · rw [List.getElem?_map, hr, Option.map_some] at hq
    obtain rfl := Option.some.inj hq
    refine ⟨fun hn => if_neg hn, ?_⟩
    split
    · obtain hg | ⟨c, ms, -, rfl⟩ := hg
      · rw [hg]
      · rfl
    · rfl

/-! ### Roles and counts of a member's echoes (R53, R64, R65) -/

/-- An element with its held echoes and its foreign mark, as a member of the open group. -/
def memberOf (m : Fin 64 × List EchoRecord × Bool) : Member := ⟨m.1.val, m.2.1, m.2.2⟩

theorem Closing.valid_length_le (c : Closing) (m : Member) : (c.valid m).length ≤ m.held.length :=
  (List.length_filterMap_le _ _).trans (le_of_eq (List.length_map _))

theorem Closing.forwarded_length_le (c : Closing) (m : Member) : (c.forwarded m).length ≤ (c.valid m).length := by
  unfold Closing.forwarded
  split
  · exact Nat.zero_le _
  · exact le_refl _

/-- Of at most two valid echoes, the last is LAST, and one before it FIRST_ONLY. -/
theorem assignRoles_two (element : Nat) (suspect : Bool) : ∀ ps : List ValidEcho, ps.length ≤ 2 →
    assignRoles element suspect ps = match ps with
      | [] => []
      | [p] => [⟨element, p.x, p.y, p.r, qualityOf p.echo suspect, .last, suspect⟩]
      | p :: p' :: _ => [⟨element, p.x, p.y, p.r, qualityOf p.echo suspect, .firstOnly, suspect⟩,
          ⟨element, p'.x, p'.y, p'.r, qualityOf p'.echo suspect, .last, suspect⟩]
  | [], _ => rfl
  | [_], _ => rfl
  | [_, _], _ => rfl
  | _ :: _ :: _ :: _, h => by simp at h

/-- Settles O20: the close of a group is `Closing.closed` of its members; one valid echo is the case of one member. -/
theorem validEchoReachesItsBin : Obligations.ValidEchoReachesItsBin := by
  refine (and_iff_right_of_imp ?_).2 ⟨fun g => ?_, ?_⟩
  · rintro ⟨-, group⟩ s k v w table f g e x y r bin hl hk hv hw ht hf hr hg ha hd hb q
    refine (group s k v w table f g [(e.element, [e], false)] hl hk hv hw ht hf hg ha (by simp)).trans ?_
    rw [Fin.getElem_fin] at hd
    simp [hd, hb, hr, q]
  · unfold FiringGroup.members
    cases g.paired <;> simp
  · intro s k v w table f g members hl hk hv hw ht hf hg ha hheld disposals all near far valid forwarded point points place back
    have hdisposals : ∀ m, (s.closing v w g table).disposals (memberOf m) = disposals m := fun m => by
      unfold Closing.disposals
      rw [dif_pos (show (memberOf m).element < 64 from m.1.isLt)]
      rfl
    have hvalid : ∀ m, (s.closing v w g table).valid (memberOf m) = valid m := fun m => by
      unfold Closing.valid
      rw [hdisposals]; rfl
    have hforwarded : ∀ m, (s.closing v w g table).forwarded (memberOf m) = forwarded m := fun m => by
      unfold Closing.forwarded
      rw [hvalid]
      exact if_congr (by rw [Bool.and_eq_true, Bool.not_eq_true']; exact Iff.rfl) rfl rfl
    have hpoints : (members.map memberOf).flatMap (s.closing v w g table).points = points := by
      rw [List.flatMap_map]
      refine List.flatMap_congr fun m hm => ?_
      have hlength := ((s.closing v w g table).forwarded_length_le (memberOf m)).trans
        (((s.closing v w g table).valid_length_le (memberOf m)).trans (hheld m hm))
      refine (assignRoles_two _ _ _ hlength).trans ?_
      rw [hforwarded]
      rfl
    have hall : (members.map memberOf).flatMap (s.closing v w g table).disposals = all := by
      rw [List.flatMap_map]
      exact List.flatMap_congr fun m _ => hdisposals m
    have hdropped : ((members.map memberOf).map fun m =>
        ((s.closing v w g table).valid m).length - ((s.closing v w g table).forwarded m).length).sum
          = (members.map fun m => (valid m).length - (forwarded m).length).sum := by
      rw [List.map_map]
      exact congrArg List.sum (List.map_congr_left fun m _ => by rw [Function.comp, hvalid, hforwarded])
    have hplace : (s.closing v w g table).place = place := by
      funext bins p
      unfold Closing.place
      subst place
      beta_reduce
      cases binOf p.x p.y <;> rfl
    have hclosed : ∀ n, (s.closing v w g table).closed (members.map memberOf) n = { n with
        bins := points.foldl place n.bins
        summary := { n.summary with
          near := n.summary.near + near
          far := n.summary.far + far
          valid := n.summary.valid + points.length
          suspectDropped := n.summary.suspectDropped
            + (members.map fun m => (valid m).length - (forwarded m).length).sum } } := fun n => by
      unfold Closing.closed
      rw [hpoints, hall, hdropped, hplace]
    have htable : (((members.map memberOf).map (s.closing v w g table).back).foldl (adaptTable w) table)
        = members.foldl (fun t m => t.set m.1.val (t[m.1].adapt w.weakLimit (outcomeOf w.ampLo (back m))) m.1.isLt) table := by
      rw [List.map_map, List.foldl_map]
      congr 1
      funext t m
      refine (dif_pos m.1.isLt).trans ?_
      simp only [Function.comp, Closing.back, hvalid]
      rfl
    rw [exec_dwellExpiry hl, dwellExpired_eq (ms := members.map memberOf) hk hv hw ht hf hg ha, ht, Option.map_some, htable]
    simp only [State.onSweeping_store, hclosed]
    rfl

end Sys2Proof.Machine

/-! What the operations around the sweep and the store can do: those of the converter, the watch unit, the line and the recorder leave
the sequencer, the echo processor, the store and station control as they are, or enter FAULT by recording a FATAL kind. -/

namespace Sys2Proof.Machine

/-- The property survives any update of the converter, the watch unit and the line, and any error recorded. -/
structure KeptAround (P : State → Prop) : Prop where
  conv  : ∀ s f, P s → P (s.onConv f)
  watch : ∀ s f, P s → P (s.onWatch f)
  line  : ∀ s f, P s → P (s.onLine f)
  rcd   : ∀ s k, P s → P (record k s)

namespace KeptAround
variable {P : State → Prop} (K : KeptAround P) {s : State}
include K

/-! ### The transmit groups -/

theorem offer (h : P s) : P (offer s) := by
  obtain ⟨x, e⟩ := offer_eq s
  rw [e]
  exact K.line _ _ h

theorem enqueue {g : TxGroup} {t : Telegram} (h : P s) : P (enqueue g t s) := by
  obtain ⟨x, e⟩ := enqueue_eq s g t
  rw [e]
  exact K.line _ _ h

theorem produceA {t : Telegram} (h : P s) : P (produceA t s) := by
  obtain ⟨-, e⟩ | ⟨-, -, e⟩ | ⟨-, e⟩ := produceA_cases s t <;> rw [e]
  · exact K.enqueue h
  · exact K.rcd _ _ h
  · exact K.watch _ _ h

theorem refillA (h : P s) : P (refillA s) := by
  obtain ⟨-, e⟩ | ⟨t, rest, -, e⟩ := refillA_cases s <;> rw [e]
  · exact h
  · exact K.enqueue (K.watch _ _ h)

theorem popGroup {g : TxGroup} (h : P s) : P (popGroup g s) := K.line _ _ h

theorem setRx {x : Receiver} (h : P s) : P (setRx x s) := K.line _ _ h

theorem abandonTx (h : P s) : P (abandonTx s) := by
  have hx : P (s.onLine fun l => { l with tx := none }) := K.line _ _ h
  unfold Machine.abandonTx
  split
  · exact h
  · dsimp only
    split
    · split
      · exact K.refillA (K.popGroup hx)
      · exact K.popGroup hx
    · exact hx

theorem edgeToSide {sd : Side} {e : EdgeBody} (h : P s) : P (edgeToSide sd e s) := by
  unfold Machine.edgeToSide sendEdge
  split
  · split
    · exact K.enqueue h
    · exact K.rcd _ _ h
  · exact h

theorem sendGapEdges {n : Nat} (h : P s) : P (sendGapEdges n s) := by
  unfold Machine.sendGapEdges
  have hleft := kept_whileRun h (K.edgeToSide (sd := .left) (e := ⟨n, .both, true, []⟩) h)
  exact kept_whileRun hleft (K.edgeToSide hleft)

theorem sendEdges {r : SectionRecord} (h : P s) : P (sendEdges r s) := by
  unfold Machine.sendEdges
  have hleft := kept_whileRun h (K.edgeToSide (sd := .left) (e := r.edgeBody s.ctrl.setup .left) h)
  exact kept_whileRun hleft (K.edgeToSide hleft)

/-! ### The watch unit -/

theorem endRecord {n : Nat} {r : LocalRecord} (h : P s) : P (endRecord n r s) := by
  obtain ⟨-, e⟩ | ⟨id, -, -, e⟩ | ⟨id, -, -, e⟩ := endRecord_cases s n r <;> rw [e]
  · exact h
  · exact K.rcd _ _ (K.watch _ _ h)
  · exact K.produceA h

theorem putLocal {r : LocalRecord} (h : P s) : P (putLocal r s) := K.watch _ _ h

theorem confirmOrWait {n : Nat} {r : LocalRecord} (h : P s) : P (confirmOrWait n r s) := by
  obtain e | ⟨id, c, -, e⟩ := confirmOrWait_cases s n r <;> rw [e]
  · exact K.putLocal h
  · exact K.produceA (K.watch _ _ (K.putLocal h))

theorem advanceMerged {n : Nat} {r : LocalRecord} (h : P s) : P (advanceMerged n r s) := by
  unfold Machine.advanceMerged
  split
  · exact K.confirmOrWait h
  all_goals exact K.putLocal h

theorem updateGroup {n : Nat} {g : SpanGroup} (h : P s) : P (updateGroup n g s) := by
  unfold Machine.updateGroup
  split
  · exact h
  next r rest _ =>
    have hended := kept_foldl (Q := P)
      (((g.locals.erase (pickKept r rest)).foldr insertById []).filter fun (x : LocalRecord) => x.id.isSome)
      (fun s x => whileRun (Machine.endRecord n x) s) (fun _ _ h => kept_whileRun h (K.endRecord h))
      (K.watch s (fun w => { w with locals := w.locals.filter fun x => !(g.locals.contains x) }) h)
    exact kept_whileRun hended (K.advanceMerged hended)

theorem easeRecord {n c : Nat} {r : LocalRecord} (h : P s) : P (easeRecord n c r s) := by
  unfold Machine.easeRecord
  split
  · exact K.endRecord (K.watch _ _ h)
  · exact K.watch _ _ h

theorem moveUnmatched {n : Nat} {bins : List BinRecord} {r : LocalRecord} (h : P s) : P (moveUnmatched n bins r s) := by
  unfold Machine.moveUnmatched
  dsimp only
  split
  · exact h
  · split
    · exact K.watch _ _ h
    all_goals
      split
      · exact K.easeRecord h
      · exact h

theorem createLocal {n : Nat} {sp : Span} (h : P s) : P (createLocal n sp s) := by
  unfold Machine.createLocal
  split
  · exact K.rcd _ _ h
  · exact K.confirmOrWait h

theorem evaluateSection {n : Nat} {bins : List BinRecord} (h : P s) : P (evaluateSection n bins s) := by
  unfold Machine.evaluateSection
  dsimp only
  have hrecords := kept_foldl (Q := P) (gatherGroups (spansOf bins).length (spansOf bins) s.watch.locals).1
    (fun s g => whileRun (Machine.updateGroup n g) s) (fun _ _ h => kept_whileRun h (K.updateGroup h)) h
  have hmoved := kept_foldl (Q := P) (gatherGroups (spansOf bins).length (spansOf bins) s.watch.locals).2
    (fun s r => whileRun (Machine.moveUnmatched n bins r) s) (fun _ _ h => kept_whileRun h (K.moveUnmatched h)) hrecords
  have hcreated := kept_foldl (Q := P)
    (((gatherGroups (spansOf bins).length (spansOf bins) s.watch.locals).1.filter fun g => g.locals.isEmpty).flatMap (·.spans))
    (fun s sp => whileRun (Machine.createLocal n sp) s) (fun _ _ h => kept_whileRun h (K.createLocal h)) hmoved
  exact kept_whileRun hcreated (K.watch _ _ hcreated)

theorem handleRaise {t : Received} (h : P s) : P (handleRaise t s) := by
  have hnoted : ∀ n a, P (notePeer n a s) := fun n a => by
    unfold notePeer
    dsimp only
    split
    · exact K.watch _ _ h
    · split
      · exact h
      · split
        · split
          · exact K.rcd _ _ h
          · exact K.watch _ _ h
        · exact h
  unfold Machine.handleRaise
  dsimp only
  split
  · exact h
  · exact K.watch _ _ (hnoted _ _)

/-! ### The converter -/

theorem settleChannel {c : Channel} (h : P s) : P (settleChannel c s) := by
  unfold Machine.settleChannel
  split
  · exact K.conv _ _ h
  · exact h

theorem takeCant {a : Aux} {code : Nat} (h : P s) : P (takeCant a code s) := by
  unfold Machine.takeCant
  dsimp only
  split
  · exact K.conv _ _ h
  · exact K.rcd _ _ (K.conv _ _ h)

theorem supplyCompleted {code : BitVec 12} (h : P s) : P (supplyCompleted code s) := by
  unfold Machine.supplyCompleted
  split
  · exact h
  · split
    · rw [takeSupply_eq]
      refine K.settleChannel ?_
      split
      · exact K.rcd _ _ (K.conv _ _ h)
      · exact K.conv _ _ h
    · exact h

theorem tempCompleted {code : BitVec 12} (h : P s) : P (tempCompleted code s) := by
  unfold Machine.tempCompleted
  split
  · exact h
  · split
    · rw [takeTemp_eq]
      refine K.conv _ _ ?_
      split
      · exact K.rcd _ _ (K.conv _ _ h)
      · exact K.conv _ _ h
    · exact h

theorem settleExpired (h : P s) : P (settleExpired s) := by
  unfold Machine.settleExpired
  split
  · exact K.conv _ _ h
  all_goals exact h

theorem intervalExpired (h : P s) : P (intervalExpired s) := by
  unfold Machine.intervalExpired
  split
  · dsimp only
    split
    · exact K.settleChannel (K.conv _ _ (K.conv _ _ h))
    · exact K.conv _ _ h
  · exact h

/-! ### The line and the handler -/

theorem lineIdles (h : P s) : P (lineIdles s) := by
  unfold Machine.lineIdles
  split
  · exact K.offer (K.line _ _ h)
  · exact h

theorem headerEnds {a : Header} (h : P s) : P (headerEnds a s) := by
  unfold Machine.headerEnds
  split
  · split
    · exact h
    · split
      · exact K.rcd _ _ (K.setRx h)
      · split <;> exact K.setRx h
  all_goals exact h

theorem telegramEnds {p : List Byte} {c : BitVec 16} (h : P s) : P (telegramEnds p c s) := by
  unfold Machine.telegramEnds
  split
  · split
    · dsimp only
      split
      · exact K.setRx h
      · split
        · exact K.rcd _ _ (K.setRx h)
        · split
          · exact K.rcd _ _ (K.setRx h)
          · exact K.line _ _ (K.setRx h)
    · exact h
  all_goals exact h

theorem quietSpellSeen {d : Bool} {n : Nat} (h : P s) : P (quietSpellSeen d n s) := by
  unfold Machine.quietSpellSeen
  split
  · split
    · exact K.rcd _ _ (K.setRx h)
    · exact h
  all_goals exact h

theorem contentionIsLost (h : P s) : P (contentionIsLost s) := by
  unfold Machine.contentionIsLost beginReception
  split
  · apply K.abandonTx
    split
    · exact h
    all_goals exact K.setRx h
  · exact h

theorem readbackMismatches (h : P s) : P (readbackMismatches s) := by
  unfold Machine.readbackMismatches
  split
  · exact K.line _ _ (K.abandonTx (K.setRx h))
  · exact h

theorem readbackTransitionSeen (h : P s) : P (readbackTransitionSeen s) := by
  unfold Machine.readbackTransitionSeen
  split
  · exact K.rcd _ _ (K.line _ _ h)
  · exact h

theorem firstTransitionSeen (h : P s) : P (firstTransitionSeen s) := by
  unfold Machine.firstTransitionSeen beginReception
  split
  · exact K.setRx h
  · exact h

theorem handleStatusReq {t : Received} (h : P s) : P (handleStatusReq t s) := by
  unfold Machine.handleStatusReq
  split
  · exact K.enqueue h
  · exact K.rcd _ _ h

theorem takeOldest {mine : Received → Bool} {act : Received → State → State} (hact : ∀ x u, P u → P (act x u)) (h : P s) :
    P (takeOldest mine act s) := by
  obtain e | ⟨x, rest, -, -, e | ⟨-, e⟩ | ⟨-, -, e⟩⟩ := takeOldest_cases s mine act <;> rw [e]
  · exact h
  · exact K.line _ _ h
  · exact K.rcd _ _ (K.line _ _ h)
  · exact hact x _ (K.line _ _ h)

end KeptAround

/-! ### Untouched, or in FAULT -/

/-- What is triggered and recorded of a store: the numbers that its records and the accumulator account for (R94). -/
def Store.total (st : Store) : Nat := st.gapCount + (st.records.map fun r => r.summary.gapBefore + 1).sum

/-- All but the converter, the watch unit, the line and the recorder is as it was. -/
def Untouched (s t : State) : Prop :=
  ∃ c w l r, t = { s with conv := c, watch := w, line := l, recorder := r }

/-- FAULT has been entered: the section in flight is aborted, the store holds nothing but its gap accounting (R46, R108, R177). -/
structure Faulted (s t : State) : Prop where
  ctrl      : t.ctrl = { s.ctrl with station := .fault }
  seq       : t.seq = (abortSection s).seq
  echo      : t.echo = (abortSection s).echo
  reset     : t.resetAsserted = s.resetAsserted
  records   : t.store.records = []
  gapCount  : t.store.gapCount = s.store.total
  pending   : t.store.drainPending = false
  target    : t.store.drainTarget = none
  requester : t.store.drainRequester = none

/-- The operation has left all but its own blocks untouched, or has entered FAULT. -/
def Around (s t : State) : Prop := Untouched s t ∨ Faulted s t

theorem Untouched.refl (s : State) : Untouched s s := ⟨_, _, _, _, rfl⟩

theorem Around.refl (s : State) : Around s s := .inl (.refl s)

/-- What an abort leaves of the sweep does not depend on the converter, the watch unit, the line and the recorder. -/
theorem Untouched.abortSection_eq {s t : State} (h : Untouched s t) :
    (abortSection t).seq = (abortSection s).seq ∧ (abortSection t).echo = (abortSection s).echo := by
  obtain ⟨c, w, l, r, rfl⟩ := h
  unfold abortSection
  dsimp only
  split <;> exact ⟨rfl, rfl⟩

/-- The entry to FAULT from an untouched state. -/
theorem Untouched.enterFault {s t : State} (h : Untouched s t) : Faulted s (enterFault t) := by
  obtain ⟨hseq, hecho⟩ := h.abortSection_eq
  have hgap := enterFault_gapCount t
  obtain ⟨c, w, l, r, rfl⟩ := h
  exact
    { ctrl := enterFault_ctrl _, seq := (enterFault_seq _).trans hseq, echo := (enterFault_echo _).trans hecho
      reset := enterFault_resetAsserted _, records := enterFault_records _, gapCount := hgap
      pending := enterFault_drainPending _, target := enterFault_drainTarget _, requester := enterFault_drainRequester _ }

/-- A state in FAULT stays so under changes of other blocks. -/
theorem Faulted.untouched {s t u : State} (h : Faulted s t) (hu : Untouched t u) : Faulted s u := by
  obtain ⟨c, w, l, r, rfl⟩ := hu
  exact ⟨h.ctrl, h.seq, h.echo, h.reset, h.records, h.gapCount, h.pending, h.target, h.requester⟩

theorem Untouched.trans {s t u : State} (h : Untouched s t) (hu : Untouched t u) : Untouched s u := by
  obtain ⟨c, w, l, r, rfl⟩ := h
  obtain ⟨c', w', l', r', rfl⟩ := hu
  exact ⟨_, _, _, _, rfl⟩

theorem Around.untouched {s t u : State} (h : Around s t) (hu : Untouched t u) : Around s u := by
  obtain h | h := h
  · exact .inl (h.trans hu)
  · exact .inr (h.untouched hu)

theorem keptAround_around (s : State) : KeptAround (Around s) where
  conv _ _ h := h.untouched ⟨_, _, _, _, rfl⟩
  watch _ _ h := h.untouched ⟨_, _, _, _, rfl⟩
  line _ _ h := h.untouched ⟨_, _, _, _, rfl⟩
  rcd t k h := by
    obtain ⟨-, e⟩ | ⟨-, e⟩ | ⟨⟨-, -, hs⟩, e⟩ := record_cases t k <;> rw [e]
    · exact h.untouched ⟨_, _, _, _, rfl⟩
    · exact h.untouched ⟨_, _, _, _, rfl⟩
    · obtain h | h := h
      · exact .inr (h.trans ⟨_, _, _, _, rfl⟩).enterFault
      · exact absurd (by rw [h.ctrl]) hs

end Sys2Proof.Machine

/-! What counts as a sound store and a sound sweep, taken apart: the numbers of the records and their states in their order, each record by
itself, the drain, and the sweep with its drivers and its open group. Each part is about one block, so that an operation is shown to keep
the parts it touches. -/

namespace Sys2Proof.Machine

/-! ### The numbers of the records (R92, R94) -/

/-- Every number up to `n` is a record's, or counted in a gap-before count or in the accumulator. -/
def Accounted (count n : Nat) (rs : List SectionRecord) : Prop :=
  gapsAccounted count n rs ∧ ∀ r ∈ rs.head?, r.summary.gapBefore ≤ r.number

section
variable {count n : Nat} {r q : SectionRecord} {rs : List SectionRecord}

theorem accounted_nil : Accounted count n [] ↔ count ≤ n := by simp [Accounted, gapsAccounted]

theorem accounted_single : Accounted count n [r] ↔ r.number + 1 + count = n ∧ r.summary.gapBefore ≤ r.number := by
  simp [Accounted, gapsAccounted]

theorem accounted_cons_cons : Accounted count n (r :: q :: rs) ↔
    (r.number + 1 + q.summary.gapBefore = q.number ∧ r.summary.gapBefore ≤ r.number) ∧ Accounted count n (q :: rs) := by
  simp only [Accounted, gapsAccounted, List.head?_cons, Option.mem_some_iff, forall_eq']
  constructor
  · rintro ⟨⟨hq, hrest⟩, hr⟩
    exact ⟨⟨hq, hr⟩, hrest, by omega⟩
  · rintro ⟨⟨hq, hr⟩, hrest, -⟩
    exact ⟨⟨hq, hrest⟩, hr⟩

/-- The newest record closes the account of those before it: its gap-before count is their accumulator, its number their end. -/
theorem accounted_append_singleton : Accounted count n (rs ++ [q]) ↔
    q.number + 1 + count = n ∧ Accounted q.summary.gapBefore q.number rs := by
  induction rs with
  | nil => rw [List.nil_append, accounted_single, accounted_nil]
  | cons r rs ih =>
    cases rs with
    | nil =>
      rw [List.singleton_append, accounted_cons_cons, accounted_single, accounted_single]
      constructor
      · rintro ⟨⟨hq, hr⟩, hn, -⟩
        exact ⟨hn, hq, hr⟩
      · rintro ⟨hn, hq, hr⟩
        exact ⟨⟨hq, hr⟩, hn, by omega⟩
    | cons p rs =>
      rw [List.cons_append, List.cons_append, accounted_cons_cons, accounted_cons_cons, ← List.cons_append, ih]
      exact and_left_comm

/-- The account of the records behind the oldest. -/
theorem Accounted.tail (h : Accounted count n (r :: rs)) : Accounted count n rs := by
  cases rs with
  | nil =>
    have hn := (accounted_single.1 h).1
    exact accounted_nil.2 (by omega)
  | cons q rs => exact (accounted_cons_cons.1 h).2

/-- More numbers counted in the accumulator. -/
theorem Accounted.add (d : Nat) (h : Accounted count n rs) : Accounted (count + d) (n + d) rs := by
  cases rs using List.reverseRecOn with
  | nil => exact accounted_nil.2 (Nat.add_le_add_right (accounted_nil.1 h) d)
  | append_singleton rs q =>
    obtain ⟨hn, hrest⟩ := accounted_append_singleton.1 h
    exact accounted_append_singleton.2 ⟨by omega, hrest⟩

/-- The newest record handed back to the accumulator. -/
theorem Accounted.handBack (h : Accounted count n (rs ++ [q])) : Accounted (count + (q.summary.gapBefore + 1)) n rs := by
  obtain ⟨hn, hrest⟩ := accounted_append_singleton.1 h
  have hadd := hrest.add (count + 1)
  rwa [show q.summary.gapBefore + (count + 1) = count + (q.summary.gapBefore + 1) by omega,
    show q.number + (count + 1) = n by omega] at hadd

/-- Accounted numbers ascend, below the end of the account. -/
theorem Accounted.ascend (h : Accounted count n rs) :
    (rs.Pairwise fun r q => r.number < q.number) ∧ ∀ r ∈ rs, r.number < n := by
  induction rs using List.reverseRecOn generalizing count n with
  | nil => exact ⟨.nil, by simp⟩
  | append_singleton rs q ih =>
    obtain ⟨hn, hrest⟩ := accounted_append_singleton.1 h
    obtain ⟨hpair, hbelow⟩ := ih hrest
    refine ⟨List.pairwise_append.2 ⟨hpair, List.pairwise_singleton _ q, fun x hx y hy => ?_⟩, fun x hx => ?_⟩
    · rw [List.mem_singleton.1 hy]
      exact hbelow x hx
    · obtain hx | hx := List.mem_append.1 hx
      · have := hbelow x hx
        omega
      · rw [List.mem_singleton.1 hx]
        omega

/-- All that the records and the accumulator count is at most the end of the account. -/
theorem Accounted.total_le (h : Accounted count n rs) : count + (rs.map fun r => r.summary.gapBefore + 1).sum ≤ n := by
  induction rs using List.reverseRecOn generalizing count n with
  | nil => simpa using accounted_nil.1 h
  | append_singleton rs q ih =>
    obtain ⟨hn, hrest⟩ := accounted_append_singleton.1 h
    have := ih hrest
    simp only [List.map_append, List.sum_append, List.map_cons, List.map_nil, List.sum_cons, List.sum_nil]
    omega

/-- The account of changed records that keep their numbers and gap-before counts. -/
theorem Accounted.map {f : SectionRecord → SectionRecord}
    (hf : ∀ r ∈ rs, (f r).number = r.number ∧ (f r).summary.gapBefore = r.summary.gapBefore) (h : Accounted count n rs) :
    Accounted count n (rs.map f) := by
  induction rs using List.reverseRecOn generalizing count n with
  | nil => exact h
  | append_singleton rs q ih =>
    obtain ⟨hn, hrest⟩ := accounted_append_singleton.1 h
    obtain ⟨hq, hg⟩ := hf q (by simp)
    rw [List.map_append, List.map_singleton]
    refine accounted_append_singleton.2 ⟨by omega, ?_⟩
    rw [hq, hg]
    exact ih (fun r hr => hf r (by simp [hr])) hrest

end
end Sys2Proof.Machine

/-! What counts as a sound store beside its sequencer, and what the operations on records keep of it. -/

namespace Sys2Proof.Machine

/-! ### The states of the records in their order (R38, R100, R101) -/

/-- The SWEEPING record, there exactly while a section is in flight, is the newest; a SENDING one is the oldest. -/
structure Ordered (sw : SweepState) (rs : List SectionRecord) : Prop where
  idle   : sw = .idle → ∀ r ∈ rs, r.state ≠ .sweeping
  flight : sw ≠ .idle → ∃ init r, rs = init ++ [r] ∧ r.state = .sweeping ∧ ∀ x ∈ init, x.state ≠ .sweeping
  oldest : ∀ r ∈ rs.tail, r.state ≠ .sending

/-- The order in the words of `StoreSound`. -/
theorem ordered_iff {sw : SweepState} {rs : List SectionRecord} : Ordered sw rs ↔
    (rs.filter fun r => decide (r.state = .sweeping)).length = (if sw = .idle then 0 else 1)
      ∧ (∀ r ∈ rs.dropLast, r.state ≠ .sweeping) ∧ ∀ r ∈ rs.tail, r.state ≠ .sending := by
  have none_iff : ∀ l : List SectionRecord,
      (l.filter fun r => decide (r.state = .sweeping)).length = 0 ↔ ∀ r ∈ l, r.state ≠ .sweeping := fun l => by
    simp [List.length_eq_zero_iff, List.filter_eq_nil_iff]
  constructor
  · rintro ⟨hidle, hflight, holdest⟩
    by_cases hs : sw = .idle
    · rw [if_pos hs]
      exact ⟨(none_iff rs).2 (hidle hs), fun r hr => hidle hs r (List.dropLast_subset _ hr), holdest⟩
    · obtain ⟨init, r, rfl, hr, hinit⟩ := hflight hs
      rw [if_neg hs, List.filter_append, List.length_append, (none_iff init).2 hinit]
      exact ⟨by simp [hr], by simpa using hinit, holdest⟩
  · rintro ⟨hcount, hnewest, holdest⟩
    refine ⟨fun hs => (none_iff rs).1 (by rw [hcount, if_pos hs]), fun hs => ?_, holdest⟩
    rw [if_neg hs] at hcount
    cases rs using List.reverseRecOn with
    | nil => exact absurd hcount (by simp)
    | append_singleton init r =>
      rw [List.dropLast_concat] at hnewest
      rw [List.filter_append, List.length_append, (none_iff init).2 hnewest] at hcount
      refine ⟨init, r, rfl, ?_, hnewest⟩
      by_contra hr
      simp [hr] at hcount

namespace Ordered
variable {sw sw' : SweepState} {r r' : SectionRecord} {rs : List SectionRecord}

theorem nil : Ordered .idle [] where
  idle _ := by simp
  flight h := absurd rfl h
  oldest := by simp

/-- Only whether a section is in flight matters of the sweep state. -/
theorem congr (h : Ordered sw rs) (hs : sw' = .idle ↔ sw = .idle) : Ordered sw' rs :=
  ⟨fun hi => h.idle (hs.1 hi), fun hi => h.flight (mt hs.2 hi), h.oldest⟩

theorem tail (h : Ordered sw (r :: rs)) (hr : r.state ≠ .sweeping) : Ordered sw rs where
  idle hs x hx := h.idle hs x (List.mem_cons_of_mem _ hx)
  flight hs := by
    obtain ⟨init, q, e, hq, hinit⟩ := h.flight hs
    cases init with
    | nil =>
      obtain ⟨rfl, -⟩ := List.cons.inj (e.trans (List.nil_append _))
      exact absurd hq hr
    | cons p init =>
      obtain ⟨-, hrest⟩ := List.cons.inj (e.trans (List.cons_append ..))
      exact ⟨init, q, hrest, hq, fun x hx => hinit x (List.mem_cons_of_mem _ hx)⟩
  oldest x hx := h.oldest x (List.mem_of_mem_tail hx)

/-- The oldest record, which is not SWEEPING, changed to one that is not SWEEPING either. -/
theorem head (h : Ordered sw (r :: rs)) (hr : r.state ≠ .sweeping) (hr' : r'.state ≠ .sweeping) : Ordered sw (r' :: rs) where
  idle hs x hx := by
    obtain rfl | hx := List.mem_cons.1 hx
    · exact hr'
    · exact h.idle hs x (List.mem_cons_of_mem _ hx)
  flight hs := by
    obtain ⟨init, q, rfl, hq, hinit⟩ := (h.tail hr).flight hs
    refine ⟨r' :: init, q, rfl, hq, fun x hx => ?_⟩
    obtain rfl | hx := List.mem_cons.1 hx
    · exact hr'
    · exact hinit x hx
  oldest := h.oldest

/-- Records changed one by one, the same ones SWEEPING, none newly SENDING. -/
theorem map {f : SectionRecord → SectionRecord} (h : Ordered sw rs)
    (hf : ∀ r ∈ rs, ((f r).state = .sweeping ↔ r.state = .sweeping) ∧ ((f r).state = .sending → r.state = .sending)) :
    Ordered sw (rs.map f) where
  idle hs x hx := by
    obtain ⟨r, hr, rfl⟩ := List.mem_map.1 hx
    exact mt (hf r hr).1.1 (h.idle hs r hr)
  flight hs := by
    obtain ⟨init, q, rfl, hq, hinit⟩ := h.flight hs
    refine ⟨init.map f, f q, by rw [List.map_append, List.map_singleton], (hf q (by simp)).1.2 hq, fun x hx => ?_⟩
    obtain ⟨r, hr, rfl⟩ := List.mem_map.1 hx
    exact mt (hf r (by simp [hr])).1.1 (hinit r hr)
  oldest x hx := by
    rw [← List.map_tail] at hx
    obtain ⟨r, hr, rfl⟩ := List.mem_map.1 hx
    exact mt (hf r (List.mem_of_mem_tail hr)).2 (h.oldest r hr)

/-- A SWEEPING record joins as the newest. -/
theorem append (h : Ordered .idle rs) (hs : sw ≠ .idle) (hr : r.state = .sweeping) : Ordered sw (rs ++ [r]) where
  idle hi := absurd hi hs
  flight _ := ⟨rs, r, rfl, hr, h.idle rfl⟩
  oldest x hx := by
    cases rs with
    | nil => simp at hx
    | cons q rs =>
      rw [List.cons_append, List.tail_cons, List.mem_append, List.mem_singleton] at hx
      obtain hx | rfl := hx
      · exact h.oldest x hx
      · rw [hr]; decide

end Ordered

/-! ### A record by itself (R78) -/

/-- The bin list ascends; and, where `b` asks for it, it is no longer than its sweep can make it. -/
structure SectionRecord.Fit (b : Prop) (members : Nat) (r : SectionRecord) : Prop where
  bins    : r.bins.Pairwise fun x y => x.bin < y.bin
  bounded : b → r.bins.length ≤ if r.state = .sweeping then 2 * members else 128

/-- What a change of a record has to leave as it was. -/
structure SectionRecord.Follows (r r' : SectionRecord) : Prop where
  number    : r'.number = r.number
  gapBefore : r'.summary.gapBefore = r.summary.gapBefore
  sweeping  : r'.state = .sweeping ↔ r.state = .sweeping
  sending   : r'.state = .sending → r.state = .sending
  bins      : r'.bins.map (·.bin) = r.bins.map (·.bin)

namespace SectionRecord
variable {b : Prop} {members members' : Nat} {r r' q : SectionRecord}

theorem Follows.refl (r : SectionRecord) : r.Follows r := ⟨rfl, rfl, .rfl, id, rfl⟩

theorem Follows.trans (h : r.Follows r') (h' : r'.Follows q) : r.Follows q :=
  ⟨h'.number.trans h.number, h'.gapBefore.trans h.gapBefore, h'.sweeping.trans h.sweeping, h.sending ∘ h'.sending,
    h'.bins.trans h.bins⟩

theorem Fit.follows (h : r.Fit b members) (hf : r.Follows r') : r'.Fit b members where
  bins := by
    have hpair := List.pairwise_map.2 h.bins
    rw [← hf.bins] at hpair
    exact List.pairwise_map.1 hpair
  bounded hb := by
    have hlen := congrArg List.length hf.bins
    rw [List.length_map, List.length_map] at hlen
    rw [hlen, if_congr hf.sweeping rfl rfl]
    exact h.bounded hb

theorem Fit.mono (h : r.Fit b members) (hm : b → members ≤ members') : r.Fit b members' where
  bins := h.bins
  bounded hb := by
    have hmembers := hm hb
    refine (h.bounded hb).trans ?_
    split <;> omega

end SectionRecord

/-! ### The store beside its sequencer -/

/-- The records and the accumulator are sound beside the sequencer, `n` numbers having been triggered. -/
structure Store.Kept (b : Prop) (n : Nat) (q : Sequencer) (st : Store) : Prop where
  capacity  : st.records.length ≤ 8
  accounted : Accounted st.gapCount n st.records
  ordered   : Ordered q.sweep st.records
  fit       : ∀ r ∈ st.records, r.Fit b q.closedMembers

/-- The records once the newest, the one SWEEPING, is discarded. -/
theorem Store.discardSweeping_newest {st : Store} {init : List SectionRecord} {r : SectionRecord} (hrecords : st.records = init ++ [r])
    (hr : r.state = .sweeping) (hinit : ∀ x ∈ init, x.state ≠ .sweeping) : st.discardSweeping.records = init := by
  rw [Store.discardSweeping_records, hrecords, List.filter_append,
    List.filter_eq_self.2 fun x hx => decide_eq_true (hinit x hx)]
  simp [hr]

namespace Store.Kept
variable {b : Prop} {n : Nat} {q q' : Sequencer} {st st' : Store} {r r' : SectionRecord} {rest : List SectionRecord}

/-- A store without records. -/
theorem of_nil (hr : st.records = []) (hq : q.sweep = .idle) (hn : st.gapCount ≤ n) : st.Kept b n q where
  capacity := by simp [hr]
  accounted := by rw [hr]; exact accounted_nil.2 hn
  ordered := by rw [hr, hq]; exact .nil
  fit := by simp [hr]

/-- Records and accumulator as they were. -/
theorem congr (h : st.Kept b n q) (hr : st'.records = st.records) (hg : st'.gapCount = st.gapCount) : st'.Kept b n q where
  capacity := by rw [hr]; exact h.capacity
  accounted := by rw [hr, hg]; exact h.accounted
  ordered := by rw [hr]; exact h.ordered
  fit := by rw [hr]; exact h.fit

/-- The sweep has gone on. -/
theorem sweep (h : st.Kept b n q) (hi : q'.sweep = .idle ↔ q.sweep = .idle) (hm : q.closedMembers ≤ q'.closedMembers) :
    st.Kept b n q' :=
  ⟨h.capacity, h.accounted, h.ordered.congr hi, fun r hr => (h.fit r hr).mono fun _ => hm⟩

/-- Records changed one by one. -/
theorem map {f : SectionRecord → SectionRecord} (h : st.Kept b n q) (hf : ∀ r ∈ st.records, r.Follows (f r))
    (hr : st'.records = st.records.map f) (hg : st'.gapCount = st.gapCount) : st'.Kept b n q where
  capacity := by rw [hr, List.length_map]; exact h.capacity
  accounted := by rw [hr, hg]; exact h.accounted.map fun r hr => ⟨(hf r hr).number, (hf r hr).gapBefore⟩
  ordered := by rw [hr]; exact h.ordered.map fun r hr => ⟨(hf r hr).sweeping, (hf r hr).sending⟩
  fit x hx := by
    rw [hr] at hx
    obtain ⟨r, hr, rfl⟩ := List.mem_map.1 hx
    exact (h.fit r hr).follows (hf r hr)

/-- The oldest record, not SWEEPING, changed but for its number, its gap-before count and its bins. -/
theorem head (h : st.Kept b n q) (hr : st.records = r :: rest) (hs : r.state ≠ .sweeping) (hs' : r'.state ≠ .sweeping)
    (hn : r'.number = r.number) (hgap : r'.summary.gapBefore = r.summary.gapBefore) (hb : r'.bins = r.bins)
    (hr' : st'.records = r' :: rest) (hg : st'.gapCount = st.gapCount) : st'.Kept b n q where
  capacity := by
    have := h.capacity
    rw [hr] at this
    rw [hr']
    exact this
  accounted := by
    have haccount := h.accounted
    rw [hr] at haccount
    rw [hr', hg]
    cases rest with
    | nil => rwa [accounted_single, hn, hgap, ← accounted_single]
    | cons p rest => rwa [accounted_cons_cons, hn, hgap, ← accounted_cons_cons]
  ordered := by
    have hordered := h.ordered
    rw [hr] at hordered
    rw [hr']
    exact hordered.head hs hs'
  fit x hx := by
    rw [hr', List.mem_cons] at hx
    obtain rfl | hx := hx
    · have hfit := h.fit r (by simp [hr])
      refine ⟨by rw [hb]; exact hfit.bins, fun hbound => ?_⟩
      have hlen := hfit.bounded hbound
      rw [if_neg hs] at hlen
      rw [if_neg hs', hb]
      exact hlen
    · exact h.fit x (by simp [hr, hx])

/-- The oldest record, not SWEEPING, gone. -/
theorem tail (h : st.Kept b n q) (hr : st.records = r :: rest) (hs : r.state ≠ .sweeping) (hr' : st'.records = rest)
    (hg : st'.gapCount = st.gapCount) : st'.Kept b n q := by
  obtain ⟨hcapacity, haccounted, hordered, hfit⟩ := h
  rw [hr] at hcapacity haccounted hordered hfit
  constructor
  · rw [hr']; exact Nat.le_of_succ_le hcapacity
  · rw [hr', hg]; exact haccounted.tail
  · rw [hr']; exact hordered.tail hs
  · rw [hr']; exact fun x hx => hfit x (List.mem_cons_of_mem _ hx)

/-- A section skipped. -/
theorem skip (h : st.Kept b n q) (hr : st'.records = st.records) (hg : st'.gapCount = st.gapCount + 1) : st'.Kept b (n + 1) q where
  capacity := by rw [hr]; exact h.capacity
  accounted := by rw [hr, hg]; exact h.accounted.add 1
  ordered := by rw [hr]; exact h.ordered
  fit := by rw [hr]; exact h.fit

/-- A section started: its record is the newest, and its gap-before count is the accumulator's. -/
theorem start (h : st.Kept b n q) (hq : q.sweep = .idle) (hq' : q'.sweep = .waiting) (hlen : st.records.length < 8)
    (hs : r.state = .sweeping) (hn : r.number = n) (hgap : r.summary.gapBefore = st.gapCount) (hb : r.bins = [])
    (hr : st'.records = st.records ++ [r]) (hg : st'.gapCount = 0) : st'.Kept b (n + 1) q' where
  capacity := by rw [hr, List.length_append]; exact hlen
  accounted := by
    rw [hr, hg, accounted_append_singleton, hn, hgap]
    exact ⟨rfl, h.accounted⟩
  ordered := by
    have hordered := h.ordered
    rw [hq] at hordered
    rw [hr, hq']
    exact hordered.append (by simp) hs
  fit x hx := by
    rw [hr, List.mem_append, List.mem_singleton] at hx
    obtain hx | rfl := hx
    · have hfit := h.fit x hx
      have hx := h.ordered.idle hq x hx
      refine ⟨hfit.bins, fun hbound => ?_⟩
      have hlen := hfit.bounded hbound
      rw [if_neg hx] at hlen ⊢
      exact hlen
    · exact ⟨by rw [hb]; exact .nil, fun _ => by rw [hb]; exact Nat.zero_le _⟩

/-- The section in flight is over, its record among the others that no sweep fills any more. -/
theorem close {f : SectionRecord → SectionRecord} (h : st.Kept b n q) (hq : b → q.closedMembers ≤ 64) (hq' : q'.sweep = .idle)
    (hf : ∀ r ∈ st.records, (f r).number = r.number ∧ (f r).summary.gapBefore = r.summary.gapBefore ∧ (f r).bins = r.bins
      ∧ (f r).state ≠ .sweeping ∧ ((f r).state = .sending → r.state = .sending))
    (hr : st'.records = st.records.map f) (hg : st'.gapCount = st.gapCount) : st'.Kept b n q' where
  capacity := by rw [hr, List.length_map]; exact h.capacity
  accounted := by
    rw [hr, hg]
    refine h.accounted.map fun r hr => ?_
    obtain ⟨hn, hgap, -⟩ := hf r hr
    exact ⟨hn, hgap⟩
  ordered := by
    rw [hr, hq']
    refine ⟨fun _ x hx => ?_, fun hi => absurd rfl hi, fun x hx => ?_⟩
    · obtain ⟨r, hr, rfl⟩ := List.mem_map.1 hx
      obtain ⟨-, -, -, hs, -⟩ := hf r hr
      exact hs
    · rw [← List.map_tail] at hx
      obtain ⟨r, hr, rfl⟩ := List.mem_map.1 hx
      obtain ⟨-, -, -, -, hs⟩ := hf r (List.mem_of_mem_tail hr)
      exact mt hs (h.ordered.oldest r hr)
  fit x hx := by
    rw [hr] at hx
    obtain ⟨r, hr, rfl⟩ := List.mem_map.1 hx
    obtain ⟨-, -, hb, hs, -⟩ := hf r hr
    have hfit := h.fit r hr
    refine ⟨by rw [hb]; exact hfit.bins, fun hbound => ?_⟩
    have hlen := hfit.bounded hbound
    have hmembers := hq hbound
    rw [if_neg hs, hb]
    split at hlen <;> omega

/-- The SWEEPING record discarded, its gap accounting handed back (R47). -/
theorem discardSweeping (h : st.Kept b n q) (hq : q.sweep ≠ .idle) (hq' : q'.sweep = .idle) : st.discardSweeping.Kept b n q' := by
  obtain ⟨init, r, hrecords, hr, hinit⟩ := h.ordered.flight hq
  have hkeep := Store.discardSweeping_newest hrecords hr hinit
  have hgap : st.discardSweeping.gapCount = st.gapCount + (r.summary.gapBefore + 1) := by
    rw [Store.discardSweeping_gapCount, hrecords, List.filter_append,
      List.filter_eq_nil_iff.2 fun x hx => by simpa using hinit x hx]
    simp [hr]
  obtain ⟨hcapacity, haccounted, hordered, hfit⟩ := h
  rw [hrecords] at hcapacity haccounted hordered hfit
  constructor
  · rw [hkeep]
    rw [List.length_append] at hcapacity
    omega
  · rw [hkeep, hgap]; exact haccounted.handBack
  · rw [hkeep, hq']
    refine ⟨fun _ => hinit, fun hi => absurd rfl hi, fun x hx => ?_⟩
    cases init with
    | nil => simp at hx
    | cons p init => exact hordered.oldest x (List.mem_append_left _ hx)
  · rw [hkeep]
    intro x hx
    have hx' := hfit x (List.mem_append_left _ hx)
    refine ⟨hx'.bins, fun hbound => ?_⟩
    have hlen := hx'.bounded hbound
    rw [if_neg (hinit x hx)] at hlen ⊢
    exact hlen

end Store.Kept
end Sys2Proof.Machine

/-! The invariant of the store and the sweep. It is stated once for two statements: `b` asks for the bounds on the bin lists, `e` for what
is known of each element to be fired; and for the middle of an event: `n` is how many section numbers have been triggered. -/

namespace Sys2Proof.Machine

/-! ### The sweep and its open group -/

/-- The groups hold at most 64 members; the open group's are those of the group in DWELL, and each holds at most two echoes. -/
structure OpenSound (q : Sequencer) (x : EchoProcessor) : Prop where
  members : (q.groups.map fun g => g.members.length).sum ≤ 64
  opened  : ∀ ms ∈ x.acceptance, ∀ (k : Nat) (g : FiringGroup), q.sweep = .dwell k → q.groups[k]? = some g →
    ms.map (·.element) = g.members
  held    : ∀ ms ∈ x.acceptance, ∀ m ∈ ms, m.held.length ≤ 2

/-- Every member of a group is an element to be fired (R35). -/
def Fired (q : Sequencer) (u : Setup) : Prop :=
  ∀ g ∈ q.groups, ∀ e ∈ g.members, ∃ (h : Head) (w : SweepFixed) (table : Vector Element 64) (k : Fin 64),
    u.head = some h ∧ q.fixed = some w ∧ q.table = some table ∧ k.val = e
      ∧ table[k].enabled = true ∧ u.excludes (beamAngle h w.cant table[k]) = false

/-- No group has begun: nothing driven, nothing open, no properties of a sweep. -/
structure AtRest (q : Sequencer) (x : EchoProcessor) : Prop where
  rows       : q.rows = 0
  cols       : q.cols = 0
  acceptance : x.acceptance = none
  groups     : q.groups = []
  fixed      : q.fixed = none
  geometry   : x.geometry = none

/-- The sweep is sound. -/
structure Flight (b e : Prop) (s : State) : Prop where
  inFlight : InFlightSound s
  opened   : b → OpenSound s.seq s.echo
  fired    : e → Fired s.seq s.ctrl.setup

/-- How many members the groups that have been closed hold is at most how many all hold. -/
theorem Sequencer.closedMembers_le (q : Sequencer) : q.closedMembers ≤ (q.groups.map fun g => g.members.length).sum := by
  have take_le : ∀ k : Nat, ((q.groups.take k).map fun g => g.members.length).sum ≤ (q.groups.map fun g => g.members.length).sum :=
    fun k => by
      rw [List.map_take]
      exact (List.take_sublist k _).sum_le_sum fun _ _ => Nat.zero_le _
  unfold Sequencer.closedMembers
  dsimp only
  split
  · exact Nat.zero_le _
  · exact Nat.zero_le _
  · exact take_le _
  · exact take_le _

namespace Flight
variable {b e : Prop} {s t : State}

/-- Before its first group, the sweep is at rest. -/
theorem rest (h : Flight b e s) (hs : s.seq.sweep = .idle ∨ s.seq.sweep = .waiting) : AtRest s.seq s.echo := by
  have hin := h.inFlight
  unfold InFlightSound at hin
  obtain hs | hs := hs <;>
  · rw [hs] at hin
    obtain ⟨⟨hrows, hcols, hclosed⟩, hgroups, hfixed, hgeometry⟩ := hin
    exact ⟨hrows, hcols, hclosed, hgroups, hfixed, hgeometry⟩

theorem of_rest (hs : s.seq.sweep = .idle ∨ s.seq.sweep = .waiting) (h : AtRest s.seq s.echo) : Flight b e s := by
  obtain ⟨hrows, hcols, hclosed, hgroups, hfixed, hgeometry⟩ := h
  refine ⟨?_, fun _ => ⟨by simp [hgroups], by simp [hclosed], by simp [hclosed]⟩, fun _ g hg => ?_⟩
  · unfold InFlightSound
    obtain hs | hs := hs <;> rw [hs] <;> exact ⟨⟨hrows, hcols, hclosed⟩, hgroups, hfixed, hgeometry⟩
  · rw [hgroups] at hg
    exact absurd hg List.not_mem_nil

theorem congr (h : Flight b e s) (hseq : t.seq = s.seq) (hecho : t.echo = s.echo) (hreset : t.resetAsserted = s.resetAsserted)
    (hsetup : t.ctrl.setup = s.ctrl.setup) : Flight b e t := by
  obtain ⟨hin, hopened, hfired⟩ := h
  unfold InFlightSound State.quiet State.unswept at hin
  refine ⟨?_, by rw [hseq, hecho]; exact hopened, by rw [hseq, hsetup]; exact hfired⟩
  unfold InFlightSound State.quiet State.unswept
  rw [hseq, hecho, hreset]
  exact hin

end Flight

/-! ### The station beside the store (R109, R170) -/

/-- A section is in flight only in RUN, records are kept only in RUN and HALTED, and in CONFIG the accumulator is empty. -/
structure Stationed (x : Station) (sw : SweepState) (st : Store) : Prop where
  run    : sw ≠ .idle → x = .run
  empty  : x.surveys = false → st.records = []
  config : x = .config → st.gapCount = 0

/-! ### Records awaiting edges, and the drain -/

/-- A HELD record waits for a neighbour's edge; none does in HALTED. -/
def Store.Waits (x : Station) (st : Store) : Prop := ∀ r ∈ st.records, r.state = .held → r.awaits = true ∧ x ≠ .halted

/-- A drain is pending exactly while a record carries the drain mark. -/
structure Store.Drains (st : Store) : Prop where
  pending   : st.drainPending = st.records.any fun r => r.summary.drainMark
  target    : st.drainTarget.isSome = st.drainPending
  requester : st.drainRequester.isSome = st.drainPending

/-! ### The invariant -/

/-- Numbers, order, bins, station and sweep are sound. -/
structure Orderly (b e : Prop) (n : Nat) (s : State) : Prop where
  store   : s.store.Kept b n s.seq
  station : Stationed s.ctrl.station s.seq.sweep s.store
  flight  : Flight b e s

/-- All is sound, but that the oldest record may be READY. -/
structure Settled (b e : Prop) (n : Nat) (s : State) : Prop extends Orderly b e n s where
  waits  : s.store.Waits s.ctrl.station
  drains : s.store.Drains

/-- All is sound. -/
structure Sound (b e : Prop) (n : Nat) (s : State) : Prop extends Settled b e n s where
  reports : ∀ r ∈ s.store.records.head?, r.state ≠ .ready

/-- The invariant in the words of the statements. -/
theorem sound_iff {b e : Prop} {s : State} : Sound b e s.odo.triggered s ↔
    StoreSound s ∧ InFlightSound s ∧ (b → BinsBounded s) ∧ (e → EmissionSound s) := by
  constructor
  · rintro ⟨⟨⟨⟨hcapacity, haccounted, hordered, hfit⟩, ⟨hrun, hempty, hconfig⟩, ⟨hin, hopened, hfired⟩⟩, hwaits,
      ⟨hpending, htarget, hrequester⟩⟩, hreports⟩
    obtain ⟨hcount, hnewest, holdest⟩ := ordered_iff.1 hordered
    refine ⟨?_, hin, fun hb => ?_, fun he => ?_⟩
    · exact ⟨hcapacity, haccounted.ascend.1, haccounted.1, haccounted.2, hcount, hnewest, holdest, hreports,
        fun r hr hh => (hwaits r hr hh).1, hrun, fun hx r hr hh => (hwaits r hr hh).2 hx, hempty, hconfig, hpending, htarget,
        hrequester, fun r hr => (hfit r hr).bins⟩
    · obtain ⟨hmembers, hopen, hheld⟩ := hopened hb
      refine ⟨fun r hr hs => ?_, fun r hr hs => ?_, hmembers, hopen, hheld⟩
      · simpa only [hs, if_false] using (hfit r hr).bounded hb
      · simpa only [hs, if_true] using (hfit r hr).bounded hb
    · have hflight : Flight b e s := ⟨hin, hopened, hfired⟩
      refine ⟨hrun, hfired he, fun hs => (hflight.rest (.inl hs)).groups, fun hs => ?_⟩
      unfold InFlightSound at hin
      cases hsw : s.seq.sweep with
      | idle => exact ⟨(hflight.rest (.inl hsw)).rows, (hflight.rest (.inl hsw)).cols⟩
      | waiting => exact ⟨(hflight.rest (.inr hsw)).rows, (hflight.rest (.inr hsw)).cols⟩
      | dwell k => exact absurd hsw (hs k)
      | gap k =>
        rw [hsw] at hin
        obtain ⟨-, ⟨hrows, hcols, -⟩, -⟩ := hin
        exact ⟨hrows, hcols⟩
  · rintro ⟨hstore, hin, hbins, hfired⟩
    refine ⟨⟨⟨⟨hstore.capacity, ⟨hstore.gaps, hstore.firstGap⟩,
      ordered_iff.2 ⟨hstore.inFlight, hstore.newest, hstore.oldest⟩, fun r hr => ⟨hstore.bins r hr, fun hb => ?_⟩⟩,
      ⟨hstore.run, hstore.empty, hstore.config⟩, ⟨hin, fun hb => ?_, fun he => (hfired he).fired⟩⟩,
      fun r hr hh => ⟨hstore.held r hr hh, fun hx => hstore.halted hx r hr hh⟩,
      ⟨hstore.pendingDrain, hstore.target, hstore.requester⟩⟩, hstore.reports⟩
    · split
      next hs => exact (hbins hb).sweeping r hr hs
      next hs => exact (hbins hb).swept r hr hs
    · exact ⟨(hbins hb).members, (hbins hb).opened, (hbins hb).held⟩

/-! ### What the operations around the sweep and the store keep -/

section
variable {b e : Prop} {n : Nat} {s t : State}

theorem Orderly.untouched (h : Orderly b e n s) (ht : Untouched s t) : Orderly b e n t := by
  obtain ⟨c, w, l, r, rfl⟩ := ht
  exact ⟨h.store, h.station, h.flight.congr rfl rfl rfl rfl⟩

theorem Settled.untouched (h : Settled b e n s) (ht : Untouched s t) : Settled b e n t := by
  have horderly := h.toOrderly.untouched ht
  obtain ⟨c, w, l, r, rfl⟩ := ht
  exact ⟨horderly, h.waits, h.drains⟩

theorem Sound.untouched (h : Sound b e n s) (ht : Untouched s t) : Sound b e n t := by
  have hsettled := h.toSettled.untouched ht
  obtain ⟨c, w, l, r, rfl⟩ := ht
  exact ⟨hsettled, h.reports⟩

/-- After an abort the sweep is at rest. -/
theorem Flight.abortSection_atRest (h : Flight b e s) : AtRest (abortSection s).seq (abortSection s).echo := by
  by_cases hs : s.seq.sweep = .idle
  · rw [abortSection_idle s hs]
    exact h.rest (.inl hs)
  · rw [abortSection_flight s hs]
    exact ⟨rfl, rfl, rfl, rfl, rfl, rfl⟩

/-- A station with neither records nor a section in flight. -/
theorem sound_of_empty (hr : s.store.records = []) (hs : s.seq.sweep = .idle) (hn : s.store.gapCount ≤ n)
    (hrest : AtRest s.seq s.echo) (hx : s.ctrl.station = .config → s.store.gapCount = 0) (hd : s.store.Drains) : Sound b e n s := by
  refine ⟨⟨⟨.of_nil hr hs hn, ⟨fun hi => absurd hs hi, fun _ => hr, hx⟩, .of_rest (.inl hs) hrest⟩, fun r hmem => ?_, hd⟩, ?_⟩
  · rw [hr] at hmem
    exact absurd hmem List.not_mem_nil
  · rw [hr]
    simp

/-- FAULT is sound: it holds nothing. -/
theorem Faulted.sound (ht : Faulted s t) (h : Flight b e s) (hn : s.store.total ≤ n) : Sound b e n t := by
  have hrest := h.abortSection_atRest
  rw [← ht.seq, ← ht.echo] at hrest
  have hidle : t.seq.sweep = .idle := by rw [ht.seq, abortSection_sweep]
  have hfault : t.ctrl.station = .fault := by rw [ht.ctrl]
  have hrecords := ht.records
  exact sound_of_empty hrecords hidle (by rw [ht.gapCount]; exact hn) hrest
    (fun hx => by rw [hfault] at hx; exact absurd hx (by decide))
    ⟨by rw [ht.pending, hrecords]; rfl, by rw [ht.target, ht.pending]; rfl, by rw [ht.requester, ht.pending]; rfl⟩

theorem Orderly.total_le (h : Orderly b e n s) : s.store.total ≤ n := h.store.accounted.total_le

theorem Orderly.around (h : Orderly b e n s) (ht : Around s t) : Orderly b e n t := by
  obtain ht | ht := ht
  · exact h.untouched ht
  · exact (ht.sound h.flight h.total_le).toOrderly

theorem Sound.around (h : Sound b e n s) (ht : Around s t) : Sound b e n t := by
  obtain ht | ht := ht
  · exact h.untouched ht
  · exact ht.sound h.flight h.total_le

/-- Recording a kind leaves all sound, in FAULT or not. -/
theorem Sound.record (k : ErrKind) (h : Sound b e n s) : Sound b e n (record k s) :=
  h.around ((keptAround_around s).rcd _ _ (.refl s))

end
end Sys2Proof.Machine

/-! What reports, stitch windows, edges and drains keep of the invariant. -/

namespace Sys2Proof.Machine

variable {b e : Prop} {n : Nat} {s t : State} {r r' : SectionRecord} {rest : List SectionRecord}

/-! ### Changes of single records -/

/-- A change of a record after which a settled store is still settled. -/
structure SectionRecord.Stays (r r' : SectionRecord) : Prop extends SectionRecord.Follows r r' where
  marked : r'.summary.drainMark = r.summary.drainMark
  held   : r'.state = .held → r.state = .held ∧ (r.awaits = true → r'.awaits = true)

theorem SectionRecord.Stays.refl (r : SectionRecord) : r.Stays r := ⟨.refl r, rfl, fun h => ⟨h, id⟩⟩

/-- Records changed one by one. -/
theorem Orderly.map {f : SectionRecord → SectionRecord} (h : Orderly b e n s) (hf : ∀ r ∈ s.store.records, r.Follows (f r)) :
    Orderly b e n (s.onStore fun st => { st with records := st.records.map f }) where
  store := h.store.map hf rfl rfl
  station := ⟨h.station.run, fun hx => List.map_eq_nil_iff.2 (h.station.empty hx), h.station.config⟩
  flight := h.flight.congr rfl rfl rfl rfl

theorem Store.Drains.map {st : Store} {f : SectionRecord → SectionRecord} (h : st.Drains)
    (hf : ∀ r ∈ st.records, (f r).summary.drainMark = r.summary.drainMark) :
    Store.Drains { st with records := st.records.map f } := by
  refine ⟨h.pending.trans ?_, h.target, h.requester⟩
  change _ = (st.records.map f).any _
  rw [List.any_map, Bool.eq_iff_iff, List.any_eq_true, List.any_eq_true]
  exact exists_congr fun r => and_congr_right fun hr => by simp [hf r hr]

theorem Store.Waits.map {x : Station} {st : Store} {f : SectionRecord → SectionRecord} (h : st.Waits x)
    (hf : ∀ r ∈ st.records, (f r).state = .held → r.state = .held ∧ (r.awaits = true → (f r).awaits = true)) :
    Store.Waits x { st with records := st.records.map f } := by
  intro y hy hh
  obtain ⟨r, hr, rfl⟩ := List.mem_map.1 hy
  obtain ⟨hheld, hawaits⟩ := hf r hr hh
  obtain ⟨hr, hx⟩ := h r hr hheld
  exact ⟨hawaits hr, hx⟩

theorem reports_map {rs : List SectionRecord} {f : SectionRecord → SectionRecord} (h : ∀ r ∈ rs.head?, r.state ≠ .ready)
    (hf : ∀ r ∈ rs, (f r).state = .ready → r.state = .ready) : ∀ r ∈ (rs.map f).head?, r.state ≠ .ready := by
  intro y hy
  rw [List.head?_map] at hy
  obtain ⟨r, hr, rfl⟩ := Option.map_eq_some_iff.1 hy
  exact mt (hf r (List.mem_of_head? hr)) (h r hr)

theorem Settled.map {f : SectionRecord → SectionRecord} (h : Settled b e n s) (hf : ∀ r ∈ s.store.records, r.Stays (f r)) :
    Settled b e n (s.onStore fun st => { st with records := st.records.map f }) :=
  ⟨h.toOrderly.map fun r hr => (hf r hr).toFollows, h.waits.map fun r hr => (hf r hr).held,
    h.drains.map fun r hr => (hf r hr).marked⟩

/-- The records of a number are one record. -/
theorem Store.Kept.find_unique {q : Sequencer} {st : Store} {k : Nat} (h : st.Kept b n q) (hr : st.find k = some r) {x : SectionRecord}
    (hx : x ∈ st.records) (hk : x.number = k) : x = r := by
  have hmem := List.mem_of_find?_eq_some hr
  have hnumber : r.number = k := by simpa using List.find?_some hr
  have hnodup : (st.records.map (·.number)).Nodup := (List.pairwise_map.2 h.accounted.ascend.1).imp Nat.ne_of_lt
  exact List.inj_on_of_nodup_map hnodup hx hmem (hk.trans hnumber.symm)

/-- The record of a number changed. -/
theorem Settled.modify {k : Nat} {f : SectionRecord → SectionRecord} (h : Settled b e n s) (hr : s.store.find k = some r)
    (hf : r.Stays (f r)) : Settled b e n (s.onStore fun st => st.modify k f) := by
  refine h.map (f := fun r => if r.number = k then f r else r) fun x hx => ?_
  split
  next hk =>
    rw [h.store.find_unique hr hx hk]
    exact hf
  next => exact .refl x

/-! ### The report of the oldest record (R101, R104) -/

/-- The oldest record reports, or goes on reporting. -/
theorem Settled.report {q : Nat} (h : Settled b e n s) (hr : s.store.records = r :: rest) (hs : r.state ≠ .sweeping) :
    Sound b e n (s.onStore fun st => { st with records := { r with state := .sending, partsQueued := q } :: rest }) := by
  obtain ⟨⟨hstore, ⟨hrun, hempty, hconfig⟩, hflight⟩, hwaits, hdrains⟩ := h
  refine ⟨⟨⟨hstore.head (r' := { r with state := .sending, partsQueued := q }) hr hs (by simp) rfl rfl rfl rfl rfl,
    ⟨hrun, fun hx => ?_, hconfig⟩, hflight.congr rfl rfl rfl rfl⟩,
    fun x hx hh => ?_, ?_, hdrains.target, hdrains.requester⟩, ?_⟩
  · have := hempty hx
    rw [hr] at this
    exact absurd this (by simp)
  · obtain rfl | hx := List.mem_cons.1 hx
    · exact absurd hh (by simp)
    · exact hwaits x (by simp [hr, hx]) hh
  · refine hdrains.pending.trans ?_
    rw [hr]
    rfl
  · intro x hx
    obtain rfl := Option.some.inj hx
    simp

/-- The oldest record reports if it is READY. -/
theorem Settled.startReport (h : Settled b e n s) : Sound b e n (startReport s) := by
  by_cases hready : ∃ r ∈ s.store.records.head?, r.state = .ready
  · obtain ⟨r, hr, hs⟩ := hready
    obtain ⟨rest, hr⟩ := List.head?_eq_some_iff.1 hr
    obtain ⟨q, c, x, heq, -⟩ := enterParts_eq
      (s.onStore fun st => { st with records := { r with state := .sending, partsQueued := 0 } :: rest }) r.partCount
    have hstart : Machine.startReport s = enterParts r.partCount
        (s.onStore fun st => { st with records := { r with state := .sending, partsQueued := 0 } :: rest }) := by
      unfold Machine.startReport
      simp only [hr, hs, if_true]
    rw [hstart, heq]
    exact (h.report (q := q { r with state := .sending, partsQueued := 0 }) hr (by simp [hs])).untouched ⟨_, _, _, _, rfl⟩
  · have hnone : ∀ r ∈ s.store.records.head?, r.state ≠ .ready := fun r hr hs => hready ⟨r, hr, hs⟩
    rw [startReport_idle s hnone]
    exact ⟨h, hnone⟩

/-- A part of the SENDING record enters group C. -/
theorem Sound.enterPart (h : Sound b e n s) (hr : s.store.records = r :: rest) (hs : r.state = .sending) :
    Sound b e n (enterPart s) ∧ ∃ r', (enterPart s).store.records = r' :: rest ∧ r'.state = .sending := by
  obtain ⟨q, c, x, heq, -⟩ := enterParts_eq s 1
  have hpart : Machine.enterPart s = _ := heq
  have hsame : { r with partsQueued := q r } = { r with state := .sending, partsQueued := q r } := by rw [← hs]
  rw [hpart]
  simp only [State.onStore, State.onLine, hr, mapHead_cons]
  rw [hsame]
  exact ⟨(h.toSettled.report hr (by simp [hs])).untouched ⟨_, _, _, _, rfl⟩, _, rfl, rfl⟩

/-! ### The drain (R105, R106) -/

/-- Only the drain's own fields changed. -/
theorem Orderly.onDrain {f : Store → Store} (h : Orderly b e n s) (hr : (f s.store).records = s.store.records)
    (hg : (f s.store).gapCount = s.store.gapCount) : Orderly b e n (s.onStore f) where
  store := h.store.congr hr hg
  station := ⟨h.station.run, fun hx => hr.trans (h.station.empty hx), fun hx => hg.trans (h.station.config hx)⟩
  flight := h.flight.congr rfl rfl rfl rfl

theorem Around.records_nil (h : Around s t) (hr : s.store.records = []) : t.store.records = [] := by
  obtain ⟨c, w, l, r, rfl⟩ | h := h
  · exact hr
  · exact h.records

/-- The end of a drain: its DRAINED is sent, owed or dropped, and then none is pending. -/
theorem completeDrain_cases (s : State) : ∃ u, Around s u ∧
    completeDrain s = u.onStore fun st => { st with drainPending := false, drainTarget := none, drainRequester := none } := by
  unfold completeDrain
  dsimp only
  split
  · exact ⟨_, (keptAround_around s).produceA (.refl s), rfl⟩
  · exact ⟨_, .refl s, rfl⟩

/-- With no record marked any more, the end of the drain leaves none pending. -/
theorem Orderly.completeDrain_drains (h : Orderly b e n s) (hm : s.store.noneMarked = true) :
    Orderly b e n (completeDrain s) ∧ (completeDrain s).store.Drains := by
  obtain ⟨u, hu, heq⟩ := completeDrain_cases s
  have hmarked : u.store.noneMarked = true := by
    obtain ⟨c, w, l, r, rfl⟩ | hu := hu
    · exact hm
    · rw [Store.noneMarked, hu.records]
      rfl
  have hnone : (u.store.records.any fun r => r.summary.drainMark) = false := by
    simpa [Store.noneMarked] using hmarked
  rw [heq]
  exact ⟨(h.around hu).onDrain rfl rfl, hnone.symm, rfl, rfl⟩

/-- The end of a drain makes no record wait. -/
theorem Store.Waits.completeDrain (h : s.store.Waits s.ctrl.station) :
    (completeDrain s).store.Waits (completeDrain s).ctrl.station := by
  obtain ⟨u, hu, heq⟩ := completeDrain_cases s
  rw [heq]
  obtain ⟨c, w, l, r, rfl⟩ | hu := hu
  · exact h
  · intro r hr
    change r ∈ u.store.records at hr
    rw [hu.records] at hr
    exact absurd hr List.not_mem_nil

theorem Orderly.completeDrain (h : Orderly b e n s) (hw : s.store.Waits s.ctrl.station) (hm : s.store.noneMarked = true) :
    Settled b e n (completeDrain s) :=
  ⟨(h.completeDrain_drains hm).1, hw.completeDrain, (h.completeDrain_drains hm).2⟩

/-- The oldest record goes, and the drain with it if it was the last one marked. -/
theorem Sound.removeOldest (h : Sound b e n s) (hr : s.store.records = r :: rest) (hs : r.state ≠ .sweeping) :
    Sound b e n (removeOldest s) := by
  have hremoved : Orderly b e n (s.onStore fun st => { st with records := rest }) := by
    refine ⟨h.store.tail hr hs rfl rfl, ⟨h.station.run, fun hx => ?_, h.station.config⟩, h.flight.congr rfl rfl rfl rfl⟩
    have := h.station.empty hx
    rw [hr] at this
    exact absurd this (by simp)
  have hwaits : (s.onStore fun st => { st with records := rest }).store.Waits s.ctrl.station :=
    fun x hx => h.waits x (by rw [hr]; exact List.mem_cons_of_mem _ hx)
  unfold Machine.removeOldest
  simp only [hr]
  apply Settled.startReport
  split
  next hc =>
    obtain ⟨-, hnone⟩ := Bool.and_eq_true_iff.1 hc
    exact hremoved.completeDrain hwaits hnone
  next hc =>
    refine ⟨hremoved, hwaits, ?_, h.drains.target, h.drains.requester⟩
    refine h.drains.pending.trans ?_
    rw [hr, List.any_cons]
    change _ = rest.any _
    cases hmark : r.summary.drainMark with
    | false => exact Bool.false_or _
    | true =>
      rw [hmark, Bool.true_and, Store.noneMarked, Bool.not_eq_true, List.all_eq_false] at hc
      obtain ⟨x, hx, hmarked⟩ := hc
      rw [Bool.true_or]
      exact (List.any_eq_true.2 ⟨x, hx, by simpa using hmarked⟩).symm

/-- Every record marked for the drain of a requester (R105). -/
def State.drainMarked (q : Nat) (s : State) : State :=
  s.onStore fun st =>
    { st with
      records := st.records.map (SectionRecord.onSummary fun m => { m with drainMark := true })
      drainRequester := some q }

theorem Sound.drainMarked (q : Nat) (h : Sound b e n s) :
    Orderly b e n (s.drainMarked q) ∧ (s.drainMarked q).store.Waits s.ctrl.station :=
  ⟨(h.toOrderly.map (f := SectionRecord.onSummary fun m => { m with drainMark := true })
      fun _ _ => ⟨rfl, rfl, .rfl, id, rfl⟩).onDrain (f := fun st => { st with drainRequester := some q }) rfl rfl,
    h.waits.map fun _ _ hh => ⟨hh, id⟩⟩

/-- A DRAIN marks every record, or completes at once. -/
theorem Sound.handleDrain (x : Received) (h : Sound b e n s) : Sound b e n (handleDrain x s) := by
  obtain ⟨hmarked, hwaits⟩ := h.drainMarked x.sender
  have hreports : ∀ r ∈ (s.drainMarked x.sender).store.records.head?, r.state ≠ .ready := reports_map h.reports fun _ _ => id
  change Sound b e n (match (s.drainMarked x.sender).store.records.getLast? with
    | some r => (s.drainMarked x.sender).onStore fun st => { st with drainTarget := some r.number, drainPending := true }
    | none => if (s.drainMarked x.sender).store.drainPending then s.drainMarked x.sender
      else completeDrain ((s.drainMarked x.sender).onStore fun st => { st with drainTarget := none }))
  split
  next r hr =>
    refine ⟨⟨hmarked.onDrain rfl rfl, hwaits, ?_, rfl, rfl⟩, hreports⟩
    obtain ⟨q, hq, rfl⟩ := List.mem_map.1 (List.mem_of_getLast? hr)
    exact (List.any_eq_true.2 ⟨_, List.mem_map_of_mem hq, rfl⟩).symm
  next hnone =>
    have hnil : (s.drainMarked x.sender).store.records = [] := List.getLast?_eq_none_iff.1 hnone
    have hpending : (s.drainMarked x.sender).store.drainPending = false := by
      have := h.drains.pending
      rw [List.map_eq_nil_iff.1 hnil] at this
      exact this
    rw [if_neg (by rw [hpending]; exact Bool.false_ne_true)]
    have hdone : Settled b e n (completeDrain ((s.drainMarked x.sender).onStore fun st => { st with drainTarget := none })) :=
      (hmarked.onDrain rfl rfl).completeDrain hwaits (by
        change (s.drainMarked x.sender).store.records.all _ = true
        rw [hnil]
        rfl)
    refine ⟨hdone, ?_⟩
    obtain ⟨u, hu, heq⟩ := completeDrain_cases ((s.drainMarked x.sender).onStore fun st => { st with drainTarget := none })
    have hgone : u.store.records = [] := hu.records_nil hnil
    rw [heq]
    change ∀ r ∈ u.store.records.head?, _
    rw [hgone]
    simp

end Sys2Proof.Machine

/-! Stitch windows, edges, transmissions and halts keep the invariant. -/

namespace Sys2Proof.Machine

variable {b e : Prop} {n : Nat} {s t : State} {r r' : SectionRecord} {rest : List SectionRecord}

/-! ### Stitch windows (R97 to R99) -/

namespace SectionRecord

theorem close_stays (u : Setup) (hr : r.state ≠ .sweeping) : r.Stays (r.close u) := by
  obtain ⟨bins, x, y, heq, hbins⟩ := r.close_eq u
  rw [heq]
  exact ⟨⟨rfl, rfl, ⟨nofun, fun h => absurd h hr⟩, nofun, hbins⟩, rfl, nofun⟩

theorem countTrigger_stays (u : Setup) (window : Nat) (r : SectionRecord) : r.Stays (r.countTrigger u window) := by
  have counted : ∀ c : Nat, r.Stays { r with windowCount := c } := fun c =>
    ⟨⟨rfl, rfl, .rfl, id, rfl⟩, rfl, fun h => ⟨h, id⟩⟩
  unfold countTrigger
  split
  · exact counted _
  next hs =>
    dsimp only
    generalize (if r.windowCount < window then r.windowCount + 1 else r.windowCount) = c
    split
    · have hclosed := close_stays (r := { r with windowCount := c }) u (by simp [hs])
      exact ⟨(counted c).toFollows.trans hclosed.toFollows, hclosed.marked, nofun⟩
    · exact counted c
  · exact .refl r
  · exact .refl r

theorem holdEdge_stays (sd : Side) (p : PeerEdge) (r : SectionRecord) : r.Stays (r.holdEdge sd p) := by
  cases sd <;> exact ⟨⟨rfl, rfl, .rfl, id, rfl⟩, rfl, fun h => ⟨h, id⟩⟩

theorem stitchBins_bins (u : Setup) (own : Nat) (sd : Side) (peers : List EdgeEntry) (bins : List BinRecord) :
    (stitchBins u own sd peers bins).map (·.bin) = bins.map (·.bin) := by
  unfold stitchBins
  rw [List.map_map]
  refine List.map_congr_left fun x _ => ?_
  dsimp only [Function.comp]
  split
  · cases ownership own ((u.neighbour sd).getD own) peers x <;> rfl
  · rfl

/-- An edge applied marks bins and settles its side, and that is all the store's invariant sees. -/
theorem applyEdge_follows (u : Setup) (own : Nat) (sd : Side) (p : PeerEdge) (r : SectionRecord) :
    r.Follows (r.applyEdge u own sd p) ∧ (r.applyEdge u own sd p).summary.drainMark = r.summary.drainMark := by
  cases sd <;> exact ⟨⟨rfl, rfl, .rfl, id, stitchBins_bins u own _ _ _⟩, rfl⟩

theorem readyIfSettled_stays (hr : r.state = .held) : ∀ q : SectionRecord, r.Follows q → q.summary.drainMark = r.summary.drainMark →
    r.Stays q.readyIfSettled := fun q hq hm => by
  unfold readyIfSettled
  split
  next hawaits => exact ⟨hq, hm, fun _ => ⟨hr, fun _ => hawaits⟩⟩
  next =>
    exact ⟨⟨hq.number, hq.gapBefore, ⟨nofun, fun h => absurd (h.symm.trans hr) (by decide)⟩, nofun, hq.bins⟩, hm, nofun⟩

end SectionRecord

/-- Records changed one by one, each in the state it was in. -/
theorem Sound.map {f : SectionRecord → SectionRecord} (h : Sound b e n s)
    (hf : ∀ r ∈ s.store.records, r.Stays (f r) ∧ (f r).state = r.state) :
    Sound b e n (s.onStore fun st => { st with records := st.records.map f }) :=
  ⟨h.toSettled.map fun r hr => (hf r hr).1, reports_map h.reports fun r hr => (hf r hr).2.symm.trans⟩

theorem Sound.countWindows (h : Sound b e n s) : Sound b e n (countWindows s) := by
  unfold Machine.countWindows
  split
  · exact (h.toSettled.map fun r _ => r.countTrigger_stays _ _).startReport
  · exact h
  · exact h

theorem Sound.windowTimerExpired (number : Nat) (h : Sound b e n s) : Sound b e n (windowTimerExpired number s) := by
  unfold Machine.windowTimerExpired
  split
  next r hr =>
    split
    next hheld => exact (h.toSettled.modify hr (SectionRecord.close_stays _ (by rw [hheld.1]; decide))).startReport
    next => exact h
  next => exact h

/-! ### Edges (R118 to R123) -/

theorem Store.find_number {st : Store} {k : Nat} (hr : st.find k = some r) : r.number = k := by simpa using List.find?_some hr

theorem Sound.edgeMeets {k : Nat} (sd : Side) (p : PeerEdge) (h : Sound b e n s) (hr : s.store.find k = some r) :
    Sound b e n (edgeMeets r sd p s) := by
  rw [← Store.find_number hr] at hr
  unfold Machine.edgeMeets
  split
  · split
    · refine h.map (f := fun x => if x.number = r.number then x.holdEdge sd p else x) fun x _ => ?_
      split
      · exact ⟨x.holdEdge_stays sd p, by cases sd <;> rfl⟩
      · exact ⟨.refl x, rfl⟩
    · exact h.record _
  next hs =>
    split
    · obtain ⟨hfollows, hmark⟩ := r.applyEdge_follows s.ctrl.setup s.ctrl.ownNumber.toNat sd p
      exact (h.toSettled.modify hr (f := fun x => (x.applyEdge s.ctrl.setup s.ctrl.ownNumber.toNat sd p).readyIfSettled)
        (SectionRecord.readyIfSettled_stays hs _ hfollows hmark)).startReport
    · exact h.record _
  · exact h.record _
  · exact h.record _

theorem Sound.handleEdge (x : Received) (h : Sound b e n s) : Sound b e n (handleEdge x s) := by
  unfold Machine.handleEdge
  split
  · exact h.record _
  · split
    · exact h.record _
    next sd _ =>
      split
      · exact h.record _
      next r hr => exact h.edgeMeets sd _ hr

/-! ### Transmissions (R104, R164) -/

/-- A report part sent: the next part enters, or the record is removed. -/
theorem Sound.reportPartDone (p : ReportPart) (h : Sound b e n s) : Sound b e n (reportPartDone p s) := by
  unfold Machine.reportPartDone
  split
  next r rest hr =>
    split
    next hs =>
      obtain ⟨hpart, q, hq, hqs⟩ := h.enterPart hr hs.1
      dsimp only
      split
      · exact hpart.removeOldest hq (by rw [hqs]; decide)
      · exact hpart
    next => exact h
  next => exact h

theorem Sound.transmissionCompletes (h : Sound b e n s) : Sound b e n (transmissionCompletes s) := by
  unfold Machine.transmissionCompletes
  split
  · exact h
  next x _ =>
    have hpopped : Sound b e n (setRx .idleWait (popGroup x.group (s.onLine fun l => { l with tx := none }))) :=
      h.untouched ⟨_, _, _, _, rfl⟩
    dsimp only
    split
    · exact hpopped.around ((keptAround_around _).refillA (.refl _))
    · split
      · exact hpopped
      · exact hpopped.reportPartDone _
    · exact hpopped

/-! ### The halt (R46, R100, R176) -/

/-- An abort leaves all in order, the station as it is. -/
theorem Orderly.abortSection (h : Orderly b e n s) : Orderly b e n (abortSection s) := by
  by_cases hs : s.seq.sweep = .idle
  · rw [abortSection_idle s hs]
    exact h
  · have hrest := h.flight.abortSection_atRest
    rw [abortSection_flight s hs] at hrest ⊢
    have hrun := h.station.run hs
    refine ⟨h.store.discardSweeping hs rfl, ⟨fun hi => absurd rfl hi, fun hx => ?_, fun hx => ?_⟩, .of_rest (.inl rfl) hrest⟩
    · rw [hrun] at hx
      exact absurd hx (by decide)
    · rw [hrun] at hx
      exact absurd hx (by decide)

/-- With no section in flight, the station may halt. -/
theorem Orderly.halt (h : Orderly b e n s) (hs : s.seq.sweep = .idle) :
    Orderly b e n (s.onCtrl fun c => { c with station := .halted }) where
  store := h.store
  station := ⟨fun hi => absurd hs hi, fun hx => absurd hx (show ¬ Station.halted.surveys = false by decide),
    fun hx => absurd hx (show Station.halted ≠ .config by decide)⟩
  flight := h.flight.congr rfl rfl rfl rfl

/-- The abort at entry to HALTED: the discard of the last marked record ends the drain. -/
theorem Orderly.abortForHalt (ha : Orderly b e n (Machine.abortSection s)) (ho : Ordered s.seq.sweep s.store.records)
    (hd : s.store.Drains) : Orderly b e n (abortForHalt s) ∧ (abortForHalt s).store.Drains := by
  unfold Machine.abortForHalt
  dsimp only
  split
  next hc =>
    obtain ⟨-, hnone⟩ := Bool.and_eq_true_iff.1 hc
    exact ha.completeDrain_drains hnone
  next hc =>
    refine ⟨ha, ?_⟩
    by_cases hs : s.seq.sweep = .idle
    · rw [abortSection_idle s hs]
      exact hd
    · obtain ⟨init, r, hrecords, hr, hinit⟩ := ho.flight hs
      rw [abortSection_flight s hs] at hc ⊢
      obtain ⟨hpending, htarget, hrequester⟩ := s.store.discardSweeping_drain
      have hkeep := Store.discardSweeping_newest hrecords hr hinit
      refine ⟨hpending.trans (hd.pending.trans ?_), ?_, ?_⟩
      · change _ = s.store.discardSweeping.records.any _
        rw [hrecords, hkeep, List.any_append, List.any_cons, List.any_nil, Bool.or_false]
        cases hmark : r.summary.drainMark with
        | false => exact Bool.or_false _
        | true =>
          have hmarked : init.all (fun r => !r.summary.drainMark) = false := by
            simpa [hs, hrecords, hr, hmark, Store.noneMarked, hkeep] using hc
          obtain ⟨x, hx, hxm⟩ := List.all_eq_false.1 hmarked
          rw [Bool.or_true]
          exact (List.any_eq_true.2 ⟨x, hx, by simpa using hxm⟩).symm
      · exact (congrArg Option.isSome htarget).trans (hd.target.trans hpending.symm)
      · exact (congrArg Option.isSome hrequester).trans (hd.requester.trans hpending.symm)

/-- Every HELD record closed, and the report begun: nothing waits. -/
theorem Orderly.closeHeld (h : Orderly b e n s) (hd : s.store.Drains) : Sound b e n (closeHeld s) := by
  have hclosed : ∀ r : SectionRecord, r.Stays (if r.state = .held then r.close s.ctrl.setup else r) := fun r => by
    split
    next hs => exact r.close_stays _ (by rw [hs]; decide)
    next => exact .refl r
  refine Settled.startReport ⟨h.map fun r _ => (hclosed r).toFollows, fun x hx hh => ?_, hd.map fun r _ => (hclosed r).marked⟩
  obtain ⟨r, -, rfl⟩ := List.mem_map.1 hx
  split at hh
  · exact absurd hh (by simp)
  · contradiction

/-- The entry to HALTED. -/
theorem Sound.enterHalted (h : Sound b e n s) : Sound b e n (enterHalted s) := by
  have haborted : Orderly b e n (abortSection (s.onCtrl fun c => { c with station := .halted })) := by
    rw [abortSection_onCtrl]
    exact h.abortSection.halt (abortSection_sweep s)
  obtain ⟨horderly, hdrains⟩ := Orderly.abortForHalt haborted h.store.ordered h.drains
  exact (horderly.closeHeld hdrains).untouched ⟨_, _, _, _, rfl⟩

theorem Sound.localStopFalls (h : Sound b e n s) : Sound b e n (localStopFalls s) := by
  unfold Machine.localStopFalls
  split
  · have hleft : Sound b e n (abandonTx (s.onLine fun l => { l with breakSend := true })) :=
      h.around ((keptAround_around s).abandonTx ((keptAround_around s).line _ _ (.refl s)))
    exact hleft.enterHalted
  · exact h

theorem Sound.breakSeen (h : Sound b e n s) : Sound b e n (breakSeen s) := by
  have K := keptAround_around s
  have hleft : Sound b e n ((abandonTx (setRx .idleWait s)).onLine fun l => { l with judging := false }) :=
    h.around (K.line _ _ (K.abandonTx (K.setRx (.refl s))))
  unfold Machine.breakSeen
  dsimp only
  split
  · exact hleft.enterHalted
  · exact hleft

end Sys2Proof.Machine

/-! Section triggers, the odometry unit and station control keep the invariant, each trigger for one number more. -/

namespace Sys2Proof.Machine

variable {b e : Prop} {n : Nat} {s t : State} {r : SectionRecord}

theorem Sound.onOdo (f : Odometry → Odometry) (h : Sound b e n s) : Sound b e n (s.onOdo f) :=
  ⟨⟨⟨h.store, h.station, h.flight.congr rfl rfl rfl rfl⟩, h.waits, h.drains⟩, h.reports⟩

theorem Sound.renumber {m : Nat} (h : Sound b e n s) (hm : m = n) : Sound b e m s := hm ▸ h

theorem Station.surveys_iff {x : Station} : x.surveys = true ↔ x = .run ∨ x = .halted := by simp [Station.surveys]

/-! ### Triggers (R9 to R12) -/

theorem Sound.skipSection (number : Nat) (reason : GapReasons) (h : Sound b e n s) (hx : s.ctrl.station ≠ .config) :
    Sound b e (n + 1) (skipSection number reason s) := by
  have hskipped : Sound b e (n + 1) (s.onStore (·.skip reason)) :=
    ⟨⟨⟨h.store.skip rfl rfl, ⟨h.station.run, h.station.empty, fun hc => absurd hc hx⟩, h.flight.congr rfl rfl rfl rfl⟩,
      h.waits, h.drains.pending, h.drains.target, h.drains.requester⟩, h.reports⟩
  exact hskipped.around ((keptAround_around _).sendGapEdges (.refl _))

/-- A section started in RUN, with no section in flight and room in the store. -/
theorem Sound.startSection (h : Sound b e n s) (hx : s.ctrl.station = .run) (hs : s.seq.sweep = .idle)
    (hlen : s.store.records.length < 8) : Sound b e (n + 1) (startSection n s) := by
  obtain ⟨hrows, hcols, hclosed, hgroups, hfixed, hgeometry⟩ := h.flight.rest (.inl hs)
  have hstarted : Sound b e (n + 1) ((s.onStore fun st =>
      { st with records := st.records ++ [newRecord s.ctrl.setup st n], gapCount := 0, gapReasons := .empty }).onSeq
        fun q => { q with sweep := .waiting }) := by
    refine ⟨⟨⟨h.store.start hs rfl hlen rfl rfl rfl rfl rfl rfl, ⟨fun _ => hx, fun hc => ?_, fun _ => rfl⟩,
      .of_rest (.inr rfl) ⟨hrows, hcols, hclosed, hgroups, hfixed, hgeometry⟩⟩, fun x hmem hh => ?_, ?_,
      h.drains.target, h.drains.requester⟩, fun x hmem => ?_⟩
    · change s.ctrl.station.surveys = false at hc
      rw [hx] at hc
      exact absurd hc (by decide)
    · obtain hmem | hmem := List.mem_append.1 hmem
      · exact h.waits x hmem hh
      · rw [List.mem_singleton.1 hmem] at hh
        exact absurd hh (by simp [newRecord])
    · refine h.drains.pending.trans ?_
      change _ = (s.store.records ++ [newRecord s.ctrl.setup s.store n]).any _
      rw [List.any_append]
      exact (Bool.or_false _).symm
    · change x ∈ (s.store.records ++ [newRecord s.ctrl.setup s.store n]).head? at hmem
      have hreports := h.reports
      cases hrecords : s.store.records with
      | nil =>
        rw [hrecords] at hmem
        obtain rfl := Option.some.inj hmem
        simp [newRecord]
      | cons q rest =>
        rw [hrecords] at hmem hreports
        exact hreports x hmem
  refine hstarted.untouched ?_
  unfold Machine.startSection beginSectionScan settleChannel
  dsimp only
  split <;> exact ⟨_, _, _, _, rfl⟩

theorem record_station_ne_config {k : ErrKind} (hx : s.ctrl.station ≠ .config) : (record k s).ctrl.station ≠ .config := by
  obtain hc | hc := record_ctrl s k <;> rw [hc]
  · exact hx
  · exact (by decide : Station.fault ≠ .config)

theorem Sound.handleTrigger (h : Sound b e n s) (hx : s.ctrl.station.surveys = true) : Sound b e (n + 1) (handleTrigger n s) := by
  have hsurveys := Station.surveys_iff.1 hx
  have hconfig : s.ctrl.station ≠ .config := by
    obtain hx | hx := hsurveys <;> rw [hx] <;> decide
  unfold Machine.handleTrigger
  split
  · exact h.skipSection _ _ hconfig
  next hhalted =>
    split
    · exact h.skipSection _ _ hconfig
    · split
      · exact (h.record _).skipSection _ _ (record_station_ne_config hconfig)
      next hnone =>
        split
        · exact (h.record _).skipSection _ _ (record_station_ne_config hconfig)
        next hroom =>
          refine h.startSection (hsurveys.resolve_right hhalted) ?_ (Nat.lt_of_not_le hroom)
          by_contra hs
          obtain ⟨init, r, hrecords, hr, -⟩ := h.store.ordered.flight hs
          exact hnone ((Store.sweeping_isSome _).2 ⟨r, by simp [hrecords], hr⟩)

theorem Sound.triggerSection (h : Sound b e n s) (hx : s.ctrl.station.surveys = true) : Sound b e (n + 1) (triggerSection n s) :=
  h.countWindows.handleTrigger (by rw [countWindows_ctrl]; exact hx)

/-! ### Counted steps (R4, R7, R8) -/

/-- What a block does leaves the count of triggered sections alone. -/
theorem keptByBlocks_triggered (k : Nat) : KeptByBlocks fun t => t.odo.triggered = k :=
  .of_odo_ctrl (fun o _ => o.triggered = k) fun _ _ h => h

theorem keptByBlocks_limitMark (m : Bool) : KeptByBlocks fun t => t.odo.limitMark = m :=
  .of_odo_ctrl (fun o _ => o.limitMark = m) fun _ _ h => h

theorem Sound.thresholdCrossed (h : Sound b e s.odo.triggered s) (hx : s.ctrl.station.surveys = true) :
    Sound b e (thresholdCrossed s).odo.triggered (thresholdCrossed s) := by
  unfold Machine.thresholdCrossed
  split
  · exact h
  next v _ =>
    dsimp only
    split
    · rw [countWindows_odo]
      exact (h.onOdo _).countWindows
    next hmark =>
      have hmark : s.odo.limitMark = false := by simpa using hmark
      have htriggered : s.odo.triggered = s.odo.nextSection := by simp [Odometry.triggered, hmark]
      rw [htriggered] at h
      have hkept := h.triggerSection hx
      unfold advanceNumber
      split
      next hlast =>
        have hodo : ∀ t : State, t.odo.limitMark = true → (Machine.record .odometer t).odo.triggered = 16777216 := fun t ht =>
          (keptByBlocks_triggered 16777216).rcd t _ (by simp [Odometry.triggered, ht])
        exact (((hkept.onOdo _).onOdo _).record _).renumber ((hodo _ rfl).trans (by rw [hlast]; rfl))
      next =>
        have hfree : (Machine.triggerSection s.odo.nextSection s).odo.limitMark = false :=
          kept_triggerSection (keptByBlocks_limitMark false) hmark
        have hcount : ∀ t : State, t.odo.limitMark = false →
            (t.onOdo fun o => { o with nextSection := s.odo.nextSection + 1 }).odo.triggered = s.odo.nextSection + 1 := fun t ht => by
          simp [Odometry.triggered, ht]
        exact ((hkept.onOdo _).onOdo _).renumber (hcount _ hfree)

theorem Sound.recorded (k : ErrKind) (h : Sound b e s.odo.triggered s) :
    Sound b e (Machine.record k s).odo.triggered (Machine.record k s) := by
  rw [(keptByBlocks_triggered s.odo.triggered).rcd s k rfl]
  exact h.record k

theorem Sound.stepForward (h : Sound b e s.odo.triggered s) : Sound b e (stepForward s).odo.triggered (stepForward s) := by
  unfold Machine.stepForward
  split
  · exact h.recorded _
  · have hmoved : Sound b e s.odo.triggered (s.onOdo fun o => { o with pos := o.pos + 1 }) := h.onOdo _
    dsimp only
    split
    next hc => exact Sound.thresholdCrossed hmoved (Station.surveys_iff.2 hc.1)
    next => exact hmoved

theorem Sound.stepBackward (h : Sound b e s.odo.triggered s) : Sound b e (stepBackward s).odo.triggered (stepBackward s) := by
  unfold Machine.stepBackward
  split
  · exact h.recorded _
  · exact h.onOdo _

theorem Sound.pairSampled (pair : Phase) (h : Sound b e s.odo.triggered s) :
    Sound b e (pairSampled pair s).odo.triggered (pairSampled pair s) := by
  have sampled : ∀ t : State, Sound b e t.odo.triggered t →
      Sound b e (t.onOdo fun o => { o with phase := pair }).odo.triggered (t.onOdo fun o => { o with phase := pair }) :=
    fun t ht => ht.onOdo _
  unfold Machine.pairSampled
  dsimp only
  split
  · exact h
  · refine sampled _ ?_
    split
    · exact h.recorded _
    · split
      · split
        · exact h.stepForward
        · exact h.stepBackward
      · exact h

/-! ### Station control (R171 to R179) -/

/-- In CONFIG no record is kept, nothing is skipped, and the sweep is at rest. -/
theorem Sound.config (h : Sound b e n s) (hx : s.ctrl.station = .config) :
    s.store.records = [] ∧ s.store.gapCount = 0 ∧ s.seq.sweep = .idle ∧ AtRest s.seq s.echo := by
  have hs : s.seq.sweep = .idle := by
    by_contra hs
    exact absurd (hx.symm.trans (h.station.run hs)) (by decide)
  exact ⟨h.station.empty (by rw [hx]; rfl), h.station.config hx, hs, h.flight.rest (.inl hs)⟩

/-- What CONFIG keeps, whatever is stored or set up. -/
theorem Sound.configured (h : Sound b e n s) (hx : s.ctrl.station = .config) (hseq : t.seq = s.seq) (hecho : t.echo = s.echo)
    (hstore : t.store = s.store) {m : Nat} : Sound b e m t := by
  obtain ⟨hrecords, hgap, hs, hrest⟩ := h.config hx
  exact sound_of_empty (by rw [hstore]; exact hrecords) (by rw [hseq]; exact hs) (by rw [hstore, hgap]; exact Nat.zero_le _)
    (by rw [hseq, hecho]; exact hrest) (fun _ => by rw [hstore]; exact hgap) (by rw [hstore]; exact h.drains)

theorem Sound.handleSetup (x : Received) (h : Sound b e s.odo.triggered s) :
    Sound b e (handleSetup x s).odo.triggered (handleSetup x s) := by
  unfold Machine.handleSetup
  split
  next hc =>
    unfold storeSetup
    dsimp only
    split <;> refine h.configured hc.1 ?_ ?_ ?_ <;> rfl
  next => exact h.recorded _

/-- RUN entered from CONFIG, the odometry unit at its base: the state in which section 0 is triggered (R6, R175). -/
def State.atBase (s : State) : State :=
  State.onOdo (fun o => { o with base := some o.pos, nextSection := 0, limitMark := false }) { s with
    ctrl := { s.ctrl with station := .run, failingItem := none }
    env := expandEnvelope s.ctrl.setup.envelope.toList
    seq := { s.seq with table := some (initTable s.ctrl.setup) }
    watch := Watch.cleared }

/-- The entry into RUN is the trigger of section 0, and T_next and the next number after it. -/
theorem enterRun_atBase {v : Survey} (hv : s.ctrl.setup.survey = some v) : enterRun s =
    (Machine.triggerSection 0 s.atBase).onOdo fun o =>
      { o with nextThreshold := o.base.map (· + (v.spacing : Int)), nextSection := 1 } := by
  rw [enterRun_eq]
  exact startOdometry_eq hv

theorem Sound.enterRun {v : Survey} (h : Sound b e n s) (hx : s.ctrl.station = .config) (hv : s.ctrl.setup.survey = some v) :
    Sound b e (enterRun s).odo.triggered (enterRun s) := by
  obtain ⟨hrecords, hgap, hs, ⟨hrows, hcols, hclosed, hgroups, hfixed, hgeometry⟩⟩ := h.config hx
  have hbase : Sound b e 0 s.atBase := sound_of_empty hrecords hs (Nat.le_of_eq hgap)
    ⟨hrows, hcols, hclosed, hgroups, hfixed, hgeometry⟩ (fun hc => absurd hc (show Station.run ≠ .config by decide)) h.drains
  have hmark : (Machine.triggerSection 0 s.atBase).odo.limitMark = false :=
    kept_triggerSection (keptByBlocks_limitMark false) rfl
  rw [enterRun_atBase hv]
  exact ((hbase.triggerSection rfl).onOdo _).renumber (by simp [Odometry.triggered, hmark])

theorem Sound.handleStart (x : Received) (h : Sound b e s.odo.triggered s) :
    Sound b e (handleStart x s).odo.triggered (handleStart x s) := by
  unfold Machine.handleStart
  split
  next hx =>
    split
    next item _ =>
      have hfailed : Sound b e s.odo.triggered (s.onCtrl fun c => { c with failingItem := some item }) := by
        refine h.configured hx ?_ ?_ ?_ <;> rfl
      exact Sound.recorded _ hfailed
    next hpassed =>
      obtain ⟨v, hv⟩ := survey_of_startChecks hpassed
      exact h.enterRun hx hv
  next hx =>
    exact ⟨⟨⟨h.store, ⟨fun _ => rfl, fun hc => absurd hc (show ¬ Station.run.surveys = false by decide),
      fun hc => absurd hc (show Station.run ≠ .config by decide)⟩, h.flight.congr rfl rfl rfl rfl⟩,
      fun r hr hh => absurd hx (h.waits r hr hh).2, h.drains⟩, h.reports⟩
  · exact h
  · exact h

/-- RESTART clears the store and ends the sweep. -/
theorem Sound.handleRestart (x : Received) (h : Sound b e n s) :
    Sound b e (handleRestart x s).odo.triggered (handleRestart x s) := by
  unfold Machine.handleRestart
  dsimp only
  split
  next hs => exact sound_of_empty rfl hs (Nat.zero_le _) (h.flight.rest (.inl hs)) (fun _ => rfl) ⟨rfl, rfl, rfl⟩
  next => exact sound_of_empty rfl rfl (Nat.zero_le _) ⟨rfl, rfl, rfl, rfl, rfl, rfl⟩ (fun _ => rfl) ⟨rfl, rfl, rfl⟩

/-! ### Reset (R178, R179) -/

theorem sound_afterReset (straps : BitVec 4) (pair : Phase) :
    Sound b e (afterReset straps pair s).odo.triggered (afterReset straps pair s) :=
  sound_of_empty rfl rfl (Nat.le_refl _) ⟨rfl, rfl, rfl, rfl, rfl, rfl⟩ (fun _ => rfl) ⟨rfl, rfl, rfl⟩

/-- Reset asserted drives nothing, and leaves all else as it is. -/
theorem Sound.assertReset (h : Sound b e n s) : Sound b e n (assertReset s) := by
  have hseq : ∀ q : Sequencer, Sequencer.closedMembers { q with rows := 0, cols := 0 } = q.closedMembers := fun _ => rfl
  refine ⟨⟨⟨h.store.sweep .rfl (Nat.le_of_eq (hseq _).symm), ⟨h.station.run, h.station.empty, h.station.config⟩,
    ?_, fun hb => ?_, h.flight.fired⟩, h.waits, h.drains⟩, h.reports⟩
  · have hin := h.flight.inFlight
    have hsweep : (Machine.assertReset s).seq.sweep = s.seq.sweep := rfl
    unfold InFlightSound at hin ⊢
    rw [hsweep]
    cases hs : s.seq.sweep with
    | idle =>
      rw [hs] at hin
      obtain ⟨⟨-, -, hclosed⟩, hunswept⟩ := hin
      exact ⟨⟨rfl, rfl, hclosed⟩, hunswept⟩
    | waiting =>
      rw [hs] at hin
      obtain ⟨⟨-, -, hclosed⟩, hunswept⟩ := hin
      exact ⟨⟨rfl, rfl, hclosed⟩, hunswept⟩
    | dwell k =>
      rw [hs] at hin
      obtain ⟨g, hg, hopen, -, -, hrest⟩ := hin
      exact ⟨g, hg, hopen, rfl, rfl, hrest⟩
    | gap k =>
      rw [hs] at hin
      obtain ⟨hk, ⟨-, -, hclosed⟩, hrest⟩ := hin
      exact ⟨hk, ⟨rfl, rfl, hclosed⟩, hrest⟩
  · obtain ⟨hmembers, hopened, hheld⟩ := h.flight.opened hb
    exact ⟨hmembers, hopened, hheld⟩

end Sys2Proof.Machine

/-! The sweep keeps the invariant: echoes, the close of a group, the start of the next, and the completion of the sweep. -/

namespace Sys2Proof.Machine

variable {b e : Prop} {n : Nat} {s t : State} {r : SectionRecord}

/-! ### Bin lists (R78, R79) -/

theorem BinRecord.takeClearance_bin (x : BinRecord) (warn : Nat) (c : Option Int) : (x.takeClearance warn c).bin = x.bin := by
  have flags : ∀ v : Int, (x.setClearanceFlags warn v).bin = x.bin := fun _ => rfl
  unfold BinRecord.takeClearance
  split
  · rfl
  · split
    · exact flags _
    · split
      · exact flags _
      · rfl

theorem BinRecord.contribute_bin (x : BinRecord) (warn : Nat) (c : Option Int) (p : PointRecord) :
    (x.contribute warn c p).bin = x.bin := by
  unfold BinRecord.contribute
  dsimp only
  rw [BinRecord.takeClearance_bin]
  split <;> rfl

/-- A placed point's bin joins those of the list. -/
theorem mem_placeInBins {bin warn : Nat} {c : Option Int} {p : PointRecord} {bins : List BinRecord} {x : BinRecord}
    (hx : x ∈ placeInBins bin warn c p bins) : x.bin = bin ∨ ∃ y ∈ bins, x.bin = y.bin := by
  induction bins with
  | nil =>
    rw [List.mem_singleton.1 hx]
    exact .inl (BinRecord.contribute_bin ..)
  | cons y rest ih =>
    unfold placeInBins at hx
    split at hx
    next hy =>
      obtain rfl | hx := List.mem_cons.1 hx
      · exact .inl ((BinRecord.contribute_bin ..).trans hy)
      · exact .inr ⟨x, List.mem_cons_of_mem _ hx, rfl⟩
    · split at hx
      · obtain rfl | hx := List.mem_cons.1 hx
        · exact .inl (BinRecord.contribute_bin ..)
        · exact .inr ⟨x, hx, rfl⟩
      · obtain rfl | hx := List.mem_cons.1 hx
        · exact .inr ⟨x, List.mem_cons_self, rfl⟩
        · obtain h | ⟨z, hz, h⟩ := ih hx
          · exact .inl h
          · exact .inr ⟨z, List.mem_cons_of_mem _ hz, h⟩

/-- A placed point leaves the bins ascending. -/
theorem placeInBins_ascend {bins : List BinRecord} (bin warn : Nat) (c : Option Int) (p : PointRecord)
    (h : bins.Pairwise fun x y => x.bin < y.bin) : (placeInBins bin warn c p bins).Pairwise fun x y => x.bin < y.bin := by
  induction bins with
  | nil => exact List.pairwise_singleton _ _
  | cons y rest ih =>
    obtain ⟨hy, hrest⟩ := List.pairwise_cons.1 h
    unfold placeInBins
    split
    · exact List.pairwise_cons.2 ⟨fun x hx => by rw [BinRecord.contribute_bin]; exact hy x hx, hrest⟩
    next hne =>
      split
      next hlt =>
        refine List.pairwise_cons.2 ⟨fun x hx => ?_, h⟩
        rw [BinRecord.contribute_bin]
        obtain rfl | hx := List.mem_cons.1 hx
        · exact hlt
        · exact hlt.trans (hy x hx)
      next hle =>
        refine List.pairwise_cons.2 ⟨fun x hx => ?_, ih hrest⟩
        obtain hx | ⟨z, hz, hx⟩ := mem_placeInBins hx
        · omega
        · rw [hx]
          exact hy z hz

namespace Closing
variable (c : Closing)

theorem place_ascend {bins : List BinRecord} (p : PointRecord) (h : bins.Pairwise fun x y => x.bin < y.bin) :
    (c.place bins p).Pairwise fun x y => x.bin < y.bin := by
  unfold place
  split
  · exact placeInBins_ascend _ _ _ _ h
  · exact h

theorem place_length_le (bins : List BinRecord) (p : PointRecord) : (c.place bins p).length ≤ bins.length + 1 := by
  unfold place
  split
  · exact placeInBins_length_le _ _ _ _ _
  · exact Nat.le_succ _

theorem foldl_place (ps : List PointRecord) {bins : List BinRecord} (h : bins.Pairwise fun x y => x.bin < y.bin) :
    ((ps.foldl c.place bins).Pairwise fun x y => x.bin < y.bin) ∧ (ps.foldl c.place bins).length ≤ bins.length + ps.length := by
  induction ps generalizing bins with
  | nil => exact ⟨h, Nat.le_refl _⟩
  | cons p ps ih =>
    obtain ⟨hascend, hlen⟩ := ih (c.place_ascend p h)
    have hone := c.place_length_le bins p
    rw [List.foldl_cons, List.length_cons]
    exact ⟨hascend, by omega⟩

/-- One point record for each forwarded echo. -/
theorem assignRoles_length (element : Nat) (suspect : Bool) (ps : List ValidEcho) :
    (assignRoles element suspect ps).length = ps.length := by
  induction ps with
  | nil => rfl
  | cons p ps ih =>
    cases ps with
    | nil => rfl
    | cons q ps => exact congrArg (· + 1) ih

/-- Members that hold at most two echoes each give at most two points each. -/
theorem points_length_le {ms : List Member} (h : ∀ m ∈ ms, m.held.length ≤ 2) : (ms.flatMap c.points).length ≤ 2 * ms.length := by
  induction ms with
  | nil => exact Nat.le_refl _
  | cons m ms ih =>
    obtain ⟨hm, hms⟩ := List.forall_mem_cons.1 h
    have hpoints : (c.points m).length ≤ 2 :=
      (assignRoles_length ..).trans_le (((c.forwarded_length_le m).trans (c.valid_length_le m)).trans hm)
    have := ih hms
    rw [List.flatMap_cons, List.length_append, List.length_cons]
    omega

/-- The close of a group keeps the bins ascending, and adds at most one for each point. -/
theorem closed_fit {members : Nat} {ms : List Member} (h : r.Fit b members) (hs : r.state = .sweeping)
    (hheld : b → ∀ m ∈ ms, m.held.length ≤ 2) : (c.closed ms r).Fit b (members + ms.length) := by
  obtain ⟨hascend, hlen⟩ := c.foldl_place (ms.flatMap c.points) h.bins
  refine ⟨hascend, fun hb => hlen.trans ?_⟩
  have hbound := h.bounded hb
  have hpoints := c.points_length_le (hheld hb)
  rw [if_pos hs] at hbound
  rw [if_pos (show (c.closed ms r).state = .sweeping from hs)]
  omega

end Closing

/-! ### Echoes (R52 to R55) -/

/-- A change of the SWEEPING record's that leaves its number, its state and its bins. -/
theorem Sound.onSweeping {f : SectionRecord → SectionRecord} (h : Sound b e n s) (hf : ∀ r, r.Stays (f r) ∧ (f r).state = r.state) :
    Sound b e n (s.onSweeping f) := by
  refine h.map (f := fun r => if r.state = .sweeping then f r else r) fun r _ => ?_
  split
  · exact hf r
  · exact ⟨.refl r, rfl⟩

theorem SectionRecord.onSummary_stays {f : Summary → Summary} (hgap : ∀ m, (f m).gapBefore = m.gapBefore)
    (hmark : ∀ m, (f m).drainMark = m.drainMark) (r : SectionRecord) : r.Stays (r.onSummary f) ∧ (r.onSummary f).state = r.state :=
  ⟨⟨⟨rfl, hgap _, .rfl, id, rfl⟩, hmark _, fun h => ⟨h, id⟩⟩, rfl⟩

theorem Sound.foreignEcho (h : Sound b e n s) : Sound b e n (foreignEcho s) := by
  unfold Machine.foreignEcho
  split
  · exact h
  · have hcounted : Sound b e n (s.onSweeping (SectionRecord.onSummary fun m =>
        { m with foreign := min Config.countMax (m.foreign + 1) })) := by
      refine h.onSweeping fun r => r.onSummary_stays ?_ ?_ <;> exact fun _ => rfl
    dsimp only
    split
    · exact hcounted.record _
    · exact hcounted

/-- A member changed, its element and the bound on its echoes kept. -/
theorem Sound.onMember {element k : Nat} {f : Member → Member} (h : Sound b e n s) (hs : s.seq.sweep = .dwell k)
    (hf : ∀ m, (f m).element = m.element)
    (hheld : b → ∀ ms ∈ s.echo.acceptance, ∀ m ∈ ms, m.element = element → m.held.length ≤ 2 → (f m).held.length ≤ 2) :
    Sound b e n (s.onMember element f) := by
  refine ⟨⟨⟨h.store, h.station, ?_, fun hb => ?_, h.flight.fired⟩, h.waits, h.drains⟩, h.reports⟩
  · have hin := h.flight.inFlight
    have hsweep : (s.onMember element f).seq.sweep = s.seq.sweep := rfl
    unfold InFlightSound at hin ⊢
    rw [hsweep, hs]
    rw [hs] at hin
    obtain ⟨g, hg, hopen, hrest⟩ := hin
    exact ⟨g, hg, Option.isSome_map.trans hopen, hrest⟩
  · obtain ⟨hmembers, hopened, htwo⟩ := h.flight.opened hb
    refine ⟨hmembers, fun ms hms j g hj hg => ?_, fun ms hms m hm => ?_⟩ <;>
      obtain ⟨ms, hacc, rfl⟩ := Option.map_eq_some_iff.1 hms
    · rw [← hopened ms hacc j g hj hg, List.map_map]
      refine List.map_congr_left fun m _ => ?_
      dsimp only [Function.comp]
      split
      · exact hf m
      · rfl
    · obtain ⟨m, hmem, rfl⟩ := List.mem_map.1 hm
      split
      next he => exact hheld hb ms hacc m hmem he (htwo ms hacc m hmem)
      next => exact htwo ms hacc m hmem

/-- The members of the open group are of different elements. -/
theorem Sound.member_unique {k : Nat} {ms : List Member} {m m' : Member} (h : Sound b e n s) (hb : b) (hs : s.seq.sweep = .dwell k)
    (hms : s.echo.acceptance = some ms) (hm : m ∈ ms) (hm' : m' ∈ ms) (he : m.element = m'.element) : m = m' := by
  have hin := h.flight.inFlight
  unfold InFlightSound at hin
  rw [hs] at hin
  obtain ⟨g, hg, -⟩ := hin
  have helements := (h.flight.opened hb).opened ms hms k g hs hg
  exact List.inj_on_of_nodup_map (helements ▸ g.members_nodup) hm hm' he

theorem Sound.acceptEcho {k : Nat} {ms : List Member} (x : EchoRecord) (h : Sound b e n s) (hs : s.seq.sweep = .dwell k)
    (hms : s.echo.acceptance = some ms) : Sound b e n (acceptEcho ms x s) := by
  unfold Machine.acceptEcho
  split
  · exact h.foreignEcho
  next m hm =>
    split
    · exact Sound.foreignEcho (h.onMember hs (fun _ => rfl) fun _ _ _ _ _ _ htwo => htwo)
    next hc =>
      refine h.onMember hs (fun _ => rfl) fun hb ms' hms' m' hm' he _ => ?_
      rw [hms, Option.mem_some_iff] at hms'
      subst hms'
      have hfound : m.element = x.element.val := by simpa using List.find?_some hm
      have hunique : m' = m := h.member_unique hb hs hms hm' (List.mem_of_find?_eq_some hm) (he.trans hfound.symm)
      simp only [Bool.or_eq_true, decide_eq_true_eq, not_or] at hc
      rw [hunique, List.length_append, List.length_singleton]
      omega

theorem Sound.echoArrives (x : EchoRecord) (h : Sound b e n s) : Sound b e n (echoArrives x s) := by
  unfold Machine.echoArrives
  split
  · exact h
  · exact h.foreignEcho
  · exact h.foreignEcho
  next k hs =>
    split
    · exact h
    next ms hms => exact h.acceptEcho x hs hms

end Sys2Proof.Machine

/-! The groups of a sweep, one after another, and the completion of the sweep keep the invariant. -/

namespace Sys2Proof.Machine

variable {b e : Prop} {n : Nat} {s t : State} {r : SectionRecord}

/-! ### The close of a group (R41) -/

/-- What the close of a group makes of the SWEEPING record: as before, but for its bins and counts. -/
structure SectionRecord.Fills (b : Prop) (members : Nat) (r r' : SectionRecord) : Prop where
  number    : r'.number = r.number
  gapBefore : r'.summary.gapBefore = r.summary.gapBefore
  marked    : r'.summary.drainMark = r.summary.drainMark
  state     : r'.state = r.state
  fit       : r'.Fit b members

/-- The SWEEPING record filled by the close of a group. -/
theorem Store.Kept.fill {q q' : Sequencer} {st st' : Store} {f : SectionRecord → SectionRecord} (h : st.Kept b n q)
    (hi : q'.sweep = .idle ↔ q.sweep = .idle) (hm : q.closedMembers ≤ q'.closedMembers)
    (hf : ∀ r ∈ st.records, r.state = .sweeping → r.Fills b q'.closedMembers (f r))
    (hr : st'.records = st.records.map fun r => if r.state = .sweeping then f r else r) (hg : st'.gapCount = st.gapCount) :
    st'.Kept b n q' where
  capacity := by rw [hr, List.length_map]; exact h.capacity
  accounted := by
    rw [hr, hg]
    refine h.accounted.map fun r hr => ?_
    split
    next hs => exact ⟨(hf r hr hs).number, (hf r hr hs).gapBefore⟩
    next => exact ⟨rfl, rfl⟩
  ordered := by
    rw [hr]
    refine (h.ordered.congr hi).map fun r hr => ?_
    split
    next hs => rw [(hf r hr hs).state]; exact ⟨.rfl, id⟩
    next => exact ⟨.rfl, id⟩
  fit x hx := by
    rw [hr] at hx
    obtain ⟨r, hr, rfl⟩ := List.mem_map.1 hx
    split
    next hs => exact (hf r hr hs).fit
    next => exact (h.fit r hr).mono fun _ => hm

/-- Elements adapted keep what their firing was decided by. -/
theorem Fired.adapted {q q' : Sequencer} {u : Setup} {f : Vector Element 64 → Vector Element 64} (h : Fired q u)
    (hf : ∀ (t : Vector Element 64) (i : Fin 64), (f t)[i].frame = t[i].frame) (hgroups : q'.groups = q.groups)
    (hfixed : q'.fixed = q.fixed) (htable : q'.table = q.table.map f) : Fired q' u := by
  intro g hg e he
  obtain ⟨hd, w, table, k, hhead, hw, ht, hk, henabled, hclear⟩ := h g (hgroups ▸ hg) e he
  have hframe := hf table k
  simp only [Element.frame, Prod.mk.injEq] at hframe
  obtain ⟨hangle, -, hsame⟩ := hframe
  refine ⟨hd, w, f table, k, hhead, hfixed.trans hw, by rw [htable, ht]; rfl, hk, hsame.trans henabled, ?_⟩
  rw [← hclear]
  unfold beamAngle
  rw [hangle]

/-- How many members have been closed once a group's dwell has ended (R41). -/
theorem Sequencer.closedMembers_gap {q q' : Sequencer} {k : Nat} {g : FiringGroup} (hq : q.sweep = .dwell k)
    (hg : q.groups[k]? = some g) (hq' : q'.sweep = .gap k) (hgroups : q'.groups = q.groups) :
    q'.closedMembers = q.closedMembers + g.members.length := by
  unfold Sequencer.closedMembers
  rw [hq, hq', hgroups]
  dsimp only
  rw [List.take_add_one, hg]
  simp

/-- The SWEEPING record as the close of the group in DWELL leaves it. -/
theorem Sound.closed_fills {k : Nat} {fg : FiringGroup} {g : SectionRecord → SectionRecord} (h : Sound b e n s)
    (hk : s.seq.sweep = .dwell k) (hfg : s.seq.groups[k]? = some fg)
    (hg : (∀ r, g r = r) ∨ ∃ (c : Closing) (ms : List Member), s.echo.acceptance = some ms ∧ g = c.closed ms)
    (hr : r ∈ s.store.records) (hs : r.state = .sweeping) : r.Fills b (s.seq.closedMembers + fg.members.length) (g r) := by
  obtain hg | ⟨c, ms, hms, rfl⟩ := hg
  · rw [hg]
    exact ⟨rfl, rfl, rfl, rfl, (h.store.fit r hr).mono fun _ => Nat.le_add_right _ _⟩
  · have hfit := c.closed_fit (h.store.fit r hr) hs fun hb => (h.flight.opened hb).held ms hms
    refine ⟨rfl, rfl, rfl, rfl, hfit.mono fun hb => ?_⟩
    rw [← (h.flight.opened hb).opened ms hms k fg hk hfg, List.length_map]

/-- The store once the group in DWELL has been closed. -/
theorem Sound.closed_store {g : SectionRecord → SectionRecord} {m : Nat} (h : Sound b e n s)
    (hf : ∀ r ∈ s.store.records, r.state = .sweeping → r.Fills b m (g r)) :
    (s.onSweeping g).store.Waits s.ctrl.station ∧ (s.onSweeping g).store.Drains
      ∧ ∀ r ∈ (s.onSweeping g).store.records.head?, r.state ≠ .ready := by
  refine ⟨h.waits.map fun r hr hh => ?_, h.drains.map fun r hr => ?_, reports_map h.reports fun r hr hh => ?_⟩
  · split at hh
    next hs => exact absurd (hh.symm.trans ((hf r hr hs).state.trans hs)) (by decide)
    next hs =>
      rw [if_neg hs]
      exact ⟨hh, id⟩
  · split
    next hs => exact (hf r hr hs).marked
    next => rfl
  · split at hh
    next hs => exact (hf r hr hs).state.symm.trans hh
    next => exact hh

theorem Sound.dwellExpired (h : Sound b e n s) : Sound b e n (dwellExpired s) := by
  by_cases hdwell : ∃ k, s.seq.sweep = .dwell k
  · obtain ⟨k, hk⟩ := hdwell
    obtain ⟨f, g, heq, hf, hg⟩ := dwellExpired_cases hk
    have hframe : ∀ (t : Vector Element 64) (i : Fin 64), (f t)[i].frame = t[i].frame := by
      obtain hf | ⟨-, w, backs, rfl⟩ := hf
      · exact fun t i => by rw [hf]
      · exact fun t i => foldl_adaptTable_frame w backs t i
    have hin := h.flight.inFlight
    unfold InFlightSound at hin
    rw [hk] at hin
    obtain ⟨fg, hfg, -, -, -, hfixed, hgeometry⟩ := hin
    have hclosed := Sequencer.closedMembers_gap
      (q' := { s.seq with table := s.seq.table.map f, sweep := .gap k, rows := 0, cols := 0 }) hk hfg rfl rfl
    have hfills := fun r hr hs => h.closed_fills (r := r) hk hfg hg hr hs
    obtain ⟨hwaits, hdrains, hreports⟩ := h.closed_store hfills
    have hlt := (List.getElem?_eq_some_iff.1 hfg).1
    rw [heq]
    refine ⟨⟨⟨?_, ⟨fun _ => h.station.run (by rw [hk]; nofun), fun hx => ?_, h.station.config⟩, ⟨?_, fun hb => ?_, fun he => ?_⟩⟩,
      hwaits, hdrains⟩, hreports⟩
    · refine h.store.fill (f := g) (by rw [hk]; exact ⟨nofun, nofun⟩) (by rw [hclosed]; exact Nat.le_add_right _ _) ?_ rfl rfl
      rw [hclosed]
      exact hfills
    · exact List.map_eq_nil_iff.2 (h.station.empty hx)
    · exact ⟨hlt, ⟨rfl, rfl, rfl⟩, hfixed, hgeometry⟩
    · exact ⟨(h.flight.opened hb).members, by simp, by simp⟩
    · exact (h.flight.fired he).adapted hframe rfl rfl rfl
  · have hsame : Machine.dwellExpired s = s := by
      unfold Machine.dwellExpired
      split
      next k hk => exact absurd ⟨k, hk⟩ hdwell
      all_goals rfl
    rw [hsame]
    exact h

end Sys2Proof.Machine

/-! The completion of a sweep and the start of its groups keep the invariant. -/

namespace Sys2Proof.Machine

variable {b e : Prop} {n k : Nat} {s t : State} {r : SectionRecord}

/-! ### The completion of a sweep (R42, R95) -/

/-- The records of all numbers but `k` wait, if they are HELD. -/
def Store.WaitsBut (k : Nat) (x : Station) (st : Store) : Prop :=
  ∀ r ∈ st.records, r.state = .held → (r.number ≠ k → r.awaits = true) ∧ x ≠ .halted

/-- The sweep is closed, and the record `k` on its way to waiting or reporting. -/
structure Settling (b e : Prop) (n k : Nat) (s : State) : Prop extends Orderly b e n s where
  ended  : s.seq.sweep = .idle
  waits  : s.store.WaitsBut k s.ctrl.station
  drains : s.store.Drains

namespace Settling

/-- A kind recorded may end it all in FAULT. -/
theorem around (h : Settling b e n k s) (ht : Around s t) : Settling b e n k t := by
  obtain ht | ht := ht
  · have horderly := h.toOrderly.untouched ht
    obtain ⟨c, w, l, r, rfl⟩ := ht
    exact ⟨horderly, h.ended, h.waits, h.drains⟩
  · obtain ⟨⟨horderly, hwaits, hdrains⟩, -⟩ := ht.sound h.flight h.total_le
    exact ⟨horderly, by rw [ht.seq, abortSection_sweep],
      fun r hr hh => ⟨fun _ => (hwaits r hr hh).1, (hwaits r hr hh).2⟩, hdrains⟩

/-- The record on its way changed, in the state it is in. -/
theorem modify {f : SectionRecord → SectionRecord} (h : Settling b e n k s)
    (hf : ∀ r, r.Follows (f r) ∧ (f r).summary.drainMark = r.summary.drainMark ∧ (f r).state = r.state) :
    Settling b e n k (s.onStore fun st => st.modify k f) := by
  have hfollows : ∀ r : SectionRecord, r.Follows (if r.number = k then f r else r) := fun r => by
    split
    · exact (hf r).1
    · exact .refl r
  refine ⟨h.toOrderly.map fun r _ => hfollows r, h.ended, fun x hx hh => ?_, h.drains.map fun r _ => ?_⟩
  · obtain ⟨r, hr, rfl⟩ := List.mem_map.1 hx
    split at hh
    next hk =>
      obtain ⟨hfr, -, hstate⟩ := hf r
      exact ⟨fun hne => absurd (hfr.number.trans hk) (by rwa [if_pos hk] at hne), (h.waits r hr (hstate.symm.trans hh)).2⟩
    next hk =>
      rw [if_neg hk]
      exact h.waits r hr hh
  · split
    · obtain ⟨-, hmark, -⟩ := hf r
      exact hmark
    · rfl

end Settling

/-- The start of its window leaves a record HELD only if it awaits an edge. -/
theorem SectionRecord.startWindow_follows (u : Setup) (hs : r.state ≠ .sweeping) :
    r.Follows (r.startWindow u) ∧ (r.startWindow u).summary.drainMark = r.summary.drainMark
      ∧ ((r.startWindow u).state = .held → r.state = .held ∧ (r.startWindow u).awaits = true) := by
  have hsame : r.awaits = true → r.Follows r ∧ r.summary.drainMark = r.summary.drainMark
      ∧ (r.state = .held → r.state = .held ∧ r.awaits = true) := fun ha => ⟨.refl r, rfl, fun h => ⟨h, ha⟩⟩
  unfold startWindow
  split
  · exact ⟨⟨rfl, rfl, ⟨nofun, fun h => absurd h hs⟩, nofun, rfl⟩, rfl, nofun⟩
  next hawaits =>
    have hawaits : r.awaits = true := by simpa using hawaits
    split
    · split
      · have hclose := close_stays u hs
        exact ⟨hclose.toFollows, hclose.marked, nofun⟩
      · exact hsame hawaits
    · exact ⟨⟨rfl, rfl, .rfl, id, rfl⟩, rfl, fun h => ⟨h, hawaits⟩⟩
    · exact hsame hawaits

/-- With its window started, the record waits or is READY. -/
theorem Settling.startWindow (h : Settling b e n k s) (u : Setup) :
    Settled b e n (s.onStore fun st => st.modify k (SectionRecord.startWindow u)) := by
  have hidle := h.store.ordered.idle h.ended
  have hfollows : ∀ r ∈ s.store.records, r.Follows (if r.number = k then r.startWindow u else r) := fun r hr => by
    split
    · exact (r.startWindow_follows u (hidle r hr)).1
    · exact .refl r
  refine ⟨h.toOrderly.map hfollows, fun x hx hh => ?_, h.drains.map fun r hr => ?_⟩
  · obtain ⟨r, hr, rfl⟩ := List.mem_map.1 hx
    obtain ⟨-, -, hheld⟩ := r.startWindow_follows u (hidle r hr)
    split at hh
    next hk =>
      obtain ⟨hr', hawaits⟩ := hheld hh
      rw [if_pos hk]
      exact ⟨hawaits, (h.waits r hr hr').2⟩
    next hk =>
      rw [if_neg hk]
      exact ⟨(h.waits r hr hh).1 hk, (h.waits r hr hh).2⟩
  · split
    · obtain ⟨-, hmark, -⟩ := r.startWindow_follows u (hidle r hr)
      exact hmark
    · rfl

/-- Held peer edges applied mark bins and settle sides. -/
theorem SectionRecord.applyHeldEdges_follows (u : Setup) (own : Nat) (r : SectionRecord) :
    r.Follows (r.applyHeldEdges u own) ∧ (r.applyHeldEdges u own).summary.drainMark = r.summary.drainMark
      ∧ (r.applyHeldEdges u own).state = r.state := by
  have one : ∀ (sd : Side) (q : SectionRecord),
      q.Follows (q.applyHeld u own sd) ∧ (q.applyHeld u own sd).summary.drainMark = q.summary.drainMark := fun sd q => by
    unfold applyHeld
    split
    · exact q.applyEdge_follows u own sd _
    · exact ⟨.refl q, rfl⟩
  obtain ⟨hleft, hleftMark⟩ := one .left r
  obtain ⟨hright, hrightMark⟩ := one .right (r.applyHeld u own .left)
  obtain ⟨hn, hgap, hsw, hsend, hbins⟩ := hleft.trans hright
  exact ⟨⟨hn, hgap, hsw, hsend, hbins⟩, hrightMark.trans hleftMark, r.applyHeldEdges_state u own⟩

theorem Settling.settleRecord (h : Settling b e n r.number s) : Sound b e n (settleRecord r s) := by
  have hsent : Settling b e n r.number (sendEdges r s) := h.around ((keptAround_around s).sendEdges (.refl s))
  have happlied := hsent.modify (f := SectionRecord.applyHeldEdges (sendEdges r s).ctrl.setup (sendEdges r s).ctrl.ownNumber.toNat)
    fun q => q.applyHeldEdges_follows _ _
  have hevaluated := happlied.around
    (kept_whileRun (.refl _) ((keptAround_around _).evaluateSection (n := r.number) (bins := r.bins) (.refl _)))
  exact (hevaluated.startWindow _).startReport

/-- What a sweep has to have before its groups end: all is sound but the sweep itself. -/
structure Flying (b : Prop) (n : Nat) (s : State) : Prop where
  store    : s.store.Kept b n s.seq
  station  : Stationed s.ctrl.station s.seq.sweep s.store
  waits    : s.store.Waits s.ctrl.station
  drains   : s.store.Drains
  reports  : ∀ r ∈ s.store.records.head?, r.state ≠ .ready
  inFlight : s.seq.sweep ≠ .idle
  members  : b → (s.seq.groups.map fun g => g.members.length).sum ≤ 64

theorem Sound.flying (h : Sound b e n s) (hs : s.seq.sweep ≠ .idle) : Flying b n s :=
  ⟨h.store, h.station, h.waits, h.drains, h.reports, hs, fun hb => (h.flight.opened hb).members⟩

/-- At most one record is SWEEPING. -/
theorem Ordered.sweeping_unique {sw : SweepState} {rs : List SectionRecord} {x y : SectionRecord} (h : Ordered sw rs)
    (hx : x ∈ rs) (hxs : x.state = .sweeping) (hy : y ∈ rs) (hys : y.state = .sweeping) : x = y := by
  obtain ⟨init, q, rfl, -, hinit⟩ := h.flight fun hi => h.idle hi x hx hxs
  have newest : ∀ z ∈ init ++ [q], z.state = .sweeping → z = q := fun z hz hzs => by
    obtain hz | hz := List.mem_append.1 hz
    · exact absurd hzs (hinit z hz)
    · exact List.mem_singleton.1 hz
  rw [newest x hx hxs, newest y hy hys]

/-- The sweep closed and its record HELD. -/
theorem Flying.settling (h : Flying b n s) (hr : s.store.sweeping = some r) :
    Settling b e n r.number ((closeSweep s).onSweeping fun r => { r with state := .held }) := by
  have hrun := h.station.run h.inFlight
  have hclosed : b → s.seq.closedMembers ≤ 64 := fun hb => s.seq.closedMembers_le.trans (h.members hb)
  have hrest : AtRest (closeSweep s).seq (closeSweep s).echo := ⟨rfl, rfl, rfl, rfl, rfl, rfl⟩
  refine ⟨⟨h.store.close (f := fun r => if r.state = .sweeping then { r with state := .held } else r) hclosed rfl
    (fun x _ => ?_) rfl rfl, ⟨fun hi => absurd rfl hi, fun hx => List.map_eq_nil_iff.2 (h.station.empty hx), h.station.config⟩,
    .of_rest (.inl rfl) hrest⟩, rfl, fun x hx hh => ⟨fun hne => ?_, ?_⟩, h.drains.map fun x _ => ?_⟩
  · split
    · exact ⟨rfl, rfl, rfl, by simp, by simp⟩
    next hs => exact ⟨rfl, rfl, rfl, hs, id⟩
  · obtain ⟨y, hy, rfl⟩ := List.mem_map.1 hx
    split at hne
    next hs =>
      have hmem := List.mem_of_find?_eq_some hr
      have hrs : r.state = .sweeping := by simpa using List.find?_some hr
      exact absurd (congrArg SectionRecord.number (h.store.ordered.sweeping_unique hy hs hmem hrs)) hne
    next hs =>
      rw [if_neg hs] at hh ⊢
      exact (h.waits y hy hh).1
  · change s.ctrl.station ≠ .halted
    rw [hrun]
    decide
  · split <;> rfl

theorem Flying.completeSweep (h : Flying b n s) : Sound b e n (completeSweep s) := by
  obtain ⟨init, q, hrecords, hq, -⟩ := h.store.ordered.flight h.inFlight
  obtain ⟨r, hr⟩ := Option.isSome_iff_exists.1 ((Store.sweeping_isSome s.store).2 ⟨q, by simp [hrecords], hq⟩)
  have hr' : (closeSweep s).store.sweeping = some r := hr
  rw [completeSweep_eq]
  unfold settleSwept
  rw [hr']
  exact (h.settling hr).settleRecord

/-! ### The start of a group (R39, R40, R42) -/

/-- A group, or the completion of the sweep, is due. -/
structure GroupDue (b e : Prop) (n k : Nat) (s : State) : Prop extends Flying b n s where
  closed   : s.seq.closedMembers ≤ ((s.seq.groups.take k).map fun g => g.members.length).sum
  fired    : e → Fired s.seq s.ctrl.setup
  fixed    : s.seq.fixed.isSome = true
  geometry : s.echo.geometry.isSome = true

theorem GroupDue.startGroup (h : GroupDue b e n k s) (hl : s.resetAsserted = false) : Sound b e n (startGroup k s) := by
  by_cases hk : k < s.seq.groups.length
  · have hg : s.seq.groups[k]? = some s.seq.groups[k] := List.getElem?_eq_getElem hk
    rw [startGroup_some hg]
    refine ⟨⟨⟨h.store.sweep (by simp [h.inFlight]) h.closed, ⟨fun _ => h.station.run h.inFlight, h.station.empty, h.station.config⟩,
      ⟨?_, fun hb => ?_, h.fired⟩⟩, h.waits, h.drains⟩, h.reports⟩
    · exact ⟨_, hg, rfl, by simp [hl], by simp [hl], h.fixed, h.geometry⟩
    · refine ⟨h.members hb, fun ms hms j g hj hgj => ?_, fun ms hms m hm => ?_⟩
      · obtain rfl := Option.some.inj hms
        obtain rfl : k = j := by simpa using hj
        obtain rfl := Option.some.inj (hg.symm.trans hgj)
        exact List.map_map.trans (List.map_id _)
      · obtain rfl := Option.some.inj hms
        obtain ⟨i, -, rfl⟩ := List.mem_map.1 hm
        exact Nat.zero_le _
  · rw [startGroup_past (Nat.le_of_not_lt hk)]
    exact h.toFlying.completeSweep

theorem Sound.gapExpired (h : Sound b e n s) (hl : s.resetAsserted = false) : Sound b e n (gapExpired s) := by
  unfold Machine.gapExpired
  split
  next j hj =>
    have hin := h.flight.inFlight
    unfold InFlightSound at hin
    rw [hj] at hin
    obtain ⟨-, -, hfixed, hgeometry⟩ := hin
    have hclosed : s.seq.closedMembers ≤ ((s.seq.groups.take (j + 1)).map fun g => g.members.length).sum := by
      unfold Sequencer.closedMembers
      rw [hj]
    exact GroupDue.startGroup ⟨h.flying (by rw [hj]; nofun), hclosed, h.flight.fired, hfixed, hgeometry⟩ hl
  all_goals exact h

/-- The members of the groups built are the elements to be fired (R36). -/
theorem buildGroups_members_fire {w : SweepItem} {reduced : Bool} {table : Vector Element 64} {fire : Element → Bool}
    {g : FiringGroup} (hg : g ∈ buildGroups w reduced table fire) {i : Nat} (hi : i ∈ g.members) :
    ∃ k : Fin 64, k.val = i ∧ fire table[k] = true := by
  obtain ⟨j, -, hj⟩ := List.mem_filterMap.1 hg
  refine ⟨⟨i, buildGroups_members_lt hg hi⟩, rfl, ?_⟩
  have hholds := groupLedBy_holds (w := w) (reduced := reduced) (table := table) (fire := fire) j ⟨i, buildGroups_members_lt hg hi⟩
  rw [hj] at hholds
  have htrue : g.members.contains i = true := by simpa using hi
  simp only [Option.map_some, Option.getD_some, htrue] at hholds
  obtain ⟨hfires, -⟩ := Bool.and_eq_true_iff.1 hholds.symm
  exact hfires

/-- While the sweep waits, none of its groups has been closed. -/
theorem Sequencer.closedMembers_waiting {q : Sequencer} (hq : q.sweep = .waiting) : q.closedMembers = 0 := by
  unfold Sequencer.closedMembers
  rw [hq]

/-- The group list built, its first group is due. -/
theorem Sound.sweepBegun {hd : Head} {w : SweepItem} {table : Vector Element 64} (h : Sound b e n s) (hs : s.seq.sweep = .waiting)
    (hhead : s.ctrl.setup.head = some hd) (htable : s.seq.table = some table) : GroupDue b e n 0 (sweepBegun hd w table s) := by
  have hsummary : ∀ x, Sound b e n (s.onSweeping (SectionRecord.onSummary fun m => { m with sweep := x })) := fun x => by
    refine h.onSweeping fun r => r.onSummary_stays ?_ ?_ <;> exact fun _ => rfl
  have hcounted := hsummary (some ⟨s.conv.cant, s.conv.supplyWeak,
    (table.toList.filter (toFire s.ctrl.setup hd s.conv.cant)).length,
    (table.toList.filter (isExcluded s.ctrl.setup hd s.conv.cant)).length⟩)
  have hwaiting : (Machine.sweepBegun hd w table s).seq.sweep = .waiting := hs
  have hnone := Sequencer.closedMembers_waiting hwaiting
  refine ⟨⟨hcounted.store.sweep .rfl ?_, ⟨hcounted.station.run, hcounted.station.empty, hcounted.station.config⟩,
    hcounted.waits, hcounted.drains, hcounted.reports, by rw [hwaiting]; nofun,
    fun _ => buildGroups_members_le w s.conv.supplyWeak table _⟩, by rw [hnone]; exact Nat.zero_le _, fun _ g hg i hi => ?_, rfl, rfl⟩
  · exact (Sequencer.closedMembers_waiting (q := (s.onSweeping _).seq) hs).trans_le (Nat.zero_le _)
  · obtain ⟨k, hk, hfire⟩ := buildGroups_members_fire hg hi
    obtain ⟨henabled, hclear⟩ := Bool.and_eq_true_iff.1 hfire
    have hclear : s.ctrl.setup.excludes (beamAngle hd s.conv.cant table[k]) = false := by simpa using hclear
    exact ⟨hd, _, table, k, hhead, rfl, htable, hk, henabled, hclear⟩

theorem Sound.startSweep (h : Sound b e n s) (hs : s.seq.sweep = .waiting) (hl : s.resetAsserted = false) :
    Sound b e n (startSweep s) := by
  by_cases hread : ∃ hd w table, s.ctrl.setup.head = some hd ∧ s.ctrl.setup.sweep = some w ∧ s.seq.table = some table
  · obtain ⟨hd, w, table, hhead, hsweep, htable⟩ := hread
    rw [startSweep_eq hhead hsweep htable]
    exact (h.sweepBegun hs hhead htable).startGroup hl
  · have hsame : Machine.startSweep s = s := by
      unfold Machine.startSweep
      dsimp only
      split
      next hhead hsweep htable => exact absurd ⟨_, _, _, hhead, hsweep, htable⟩ hread
      next => rfl
    rw [hsame]
    exact h

theorem Sound.cantCompleted (code : BitVec 12) (h : Sound b e n s) (hl : s.resetAsserted = false) :
    Sound b e n (cantCompleted code s) := by
  unfold Machine.cantCompleted
  split
  · exact h
  next a _ =>
    split
    · have htaken := (keptAround_around s).takeCant (a := a) (code := code.toNat) (.refl s)
      have hreset : (takeCant a code.toNat s).resetAsserted = false := by
        obtain ⟨c, w, l, r, heq⟩ | hf := htaken
        · rw [heq]
          exact hl
        · exact hf.reset.trans hl
      dsimp only
      refine Sound.around ?_ ((keptAround_around _).settleChannel (.refl _))
      split
      next hs => exact (h.around htaken).startSweep hs.2 hreset
      next => exact h.around htaken
    · exact h

end Sys2Proof.Machine

/-! Every command keeps the invariant of the store and the sweep, and the two statements that follow. -/

namespace Sys2Proof.Machine

variable {b e : Prop} {n : Nat} {s t : State}

/-! ### Every command -/

theorem keptAround_sound : KeptAround (Sound b e n) where
  conv _ _ h := h.untouched ⟨_, _, _, _, rfl⟩
  watch _ _ h := h.untouched ⟨_, _, _, _, rfl⟩
  line _ _ h := h.untouched ⟨_, _, _, _, rfl⟩
  rcd _ k h := h.record k

/-- The same, with the number the odometry unit has triggered. -/
theorem keptAround_soundNow : KeptAround fun s => Sound b e s.odo.triggered s where
  conv _ _ h := h.untouched ⟨_, _, _, _, rfl⟩
  watch _ _ h := h.untouched ⟨_, _, _, _, rfl⟩
  line _ _ h := h.untouched ⟨_, _, _, _, rfl⟩
  rcd _ k h := h.recorded k

theorem Sound.handleEnd (x : Received) (h : Sound b e n s) : Sound b e n (handleEnd x s) := by
  unfold Machine.handleEnd
  exact keptAround_sound.watch _ _ h

/-- CLEAR is the recorder's alone. -/
theorem Sound.handleClear (x : Received) (h : Sound b e s.odo.triggered s) :
    Sound b e (handleClear x s).odo.triggered (handleClear x s) := by
  have huntouched : Untouched s (Machine.handleClear x s) := by
    unfold Machine.handleClear State.followAttention
    exact ⟨_, _, _, _, rfl⟩
  have hodo : (Machine.handleClear x s).odo = s.odo := by
    obtain ⟨c, w, l, r, heq⟩ := huntouched
    rw [heq]
  rw [hodo]
  exact h.untouched huntouched

/-- A command of the blocks triggers nothing, and keeps all sound. -/
theorem Sound.blockCommand {i : Instr} (hi : Instr.ofBlocks i = true) (h : Sound b e n s) (he : exec i s = .next t) :
    Sound b e n t := by
  have K := keptAround_sound (b := b) (e := e) (n := n)
  have E : ∀ {f : State → State}, live f s = .next t → (s.resetAsserted = false → Sound b e n (f s)) → Sound b e n t :=
    fun he hf => live_next (P := Sound b e n) s he h hf
  cases i <;> simp only [exec] at he
  case breakSendEnd => exact E he fun _ => K.line _ _ h
  case lineIdle => exact E he fun _ => K.lineIdles h
  case headerEnd => exact E he fun _ => K.headerEnds h
  case checkSequenceEnd => exact E he fun _ => K.telegramEnds h
  case quietSpell => exact E he fun _ => K.quietSpellSeen h
  case contentionLost => exact E he fun _ => K.contentionIsLost h
  case readbackMismatch => exact E he fun _ => K.readbackMismatches h
  case readbackTransition => exact E he fun _ => K.readbackTransitionSeen h
  case transmissionCompletion => exact E he fun _ => h.transmissionCompletes
  case edge => exact E he fun _ => K.takeOldest (fun x _ h => h.handleEdge x) h
  case alertRaise => exact E he fun _ => K.takeOldest (fun _ _ h => K.handleRaise h) h
  case alertEnd => exact E he fun _ => K.takeOldest (fun x _ h => h.handleEnd x) h
  case statusReq => exact E he fun _ => K.takeOldest (fun _ _ h => K.handleStatusReq h) h
  case drain => exact E he fun _ => K.takeOldest (fun x _ h => h.handleDrain x) h
  case settleExpiry => exact E he fun _ => K.settleExpired h
  case cantCompletion code => exact E he fun hl => h.cantCompleted code hl
  case supplyCompletion => exact E he fun _ => K.supplyCompleted h
  case tempCompletion => exact E he fun _ => K.tempCompleted h
  case scanIntervalExpiry => exact E he fun _ => K.intervalExpired h
  case dwellExpiry => exact E he fun _ => h.dwellExpired
  case gapExpiry => exact E he fun hl => h.gapExpired hl
  case echoRecord x => exact E he fun _ => h.echoArrives x
  case windowTimerExpiry number => exact E he fun _ => h.windowTimerExpired number
  case firstTransition => exact E he fun _ => K.firstTransitionSeen h
  all_goals exact absurd hi Bool.false_ne_true

/-- A halt triggers nothing. -/
theorem keptByHalt_triggered (k : Nat) : KeptByHalt fun t => t.odo.triggered = k := fun _ h _ => h

/-- Every command keeps all sound, whatever it triggers. -/
theorem exec_sound {i : Instr} (h : Sound b e s.odo.triggered s) (he : exec i s = .next t) : Sound b e t.odo.triggered t := by
  have K := keptAround_soundNow (b := b) (e := e)
  have B := keptByBlocks_triggered s.odo.triggered
  have E : ∀ {f : State → State}, live f s = .next t → Sound b e (f s).odo.triggered (f s) → Sound b e t.odo.triggered t :=
    fun he hf => live_next (P := fun t => Sound b e t.odo.triggered t) s he h fun _ => hf
  by_cases hi : Instr.ofBlocks i = true
  · exact (h.blockCommand hi he).renumber (kept_blockCommand B hi rfl he)
  cases i <;> simp only [exec] at he
  case powerOrPinReset straps pair => cases he; exact sound_afterReset straps pair
  case resetAsserted => cases he; exact h.assertReset
  case phaseTransition pair => exact E he (h.pairSampled pair)
  case localStop =>
    exact E he (h.localStopFalls.renumber (kept_localStopFalls_of_blocks B (keptByHalt_triggered _) rfl))
  case breakDetected =>
    exact E he (h.breakSeen.renumber (kept_breakSeen_of_blocks B (keptByHalt_triggered _) rfl))
  case setup => exact E he (K.takeOldest (fun x _ h => h.handleSetup x) h)
  case start => exact E he (K.takeOldest (fun x _ h => h.handleStart x) h)
  case restart => exact E he (K.takeOldest (fun x _ h => h.handleRestart x) h)
  case clear => exact E he (K.takeOldest (fun x _ h => h.handleClear x) h)
  all_goals exact absurd rfl hi

/-- Every step keeps the store, the sweep and the odometry unit sound. -/
theorem soundKept (b e : Prop) : KeptByEveryStep fun s => Sound b e s.odo.triggered s ∧ OdometrySound s := by
  refine keptByEveryStep_of_exec (fun s q h => ⟨?_, (odometrySound_iff _).2 ((odometrySound_iff s).1 h.2)⟩)
    fun i s t h he => ⟨exec_sound h.1 he, (exec_advanced ((odometrySound_iff s).1 h.2) he).sound⟩
  obtain ⟨⟨⟨horderly, hwaits, hdrains⟩, hreports⟩, -⟩ := h
  exact ⟨⟨⟨horderly.store, horderly.station, horderly.flight.congr rfl rfl rfl rfl⟩, hwaits, hdrains⟩, hreports⟩

/-- Settles O58: the invariant with the bounds on the bin lists; a sweep's groups hold at most 64 members. -/
theorem storeKept : Obligations.StoreKept := by
  refine ⟨fun s t ⟨hstore, hodo, hin, hbins⟩ he => ?_, fun s h r hr => ?_⟩
  · obtain ⟨hsound, hodo⟩ := soundKept True False s t ⟨sound_iff.2 ⟨hstore, hin, fun _ => hbins, False.elim⟩, hodo⟩ he
    obtain ⟨hstore, hin, hbins, -⟩ := sound_iff.1 hsound
    exact ⟨hstore, hodo, hin, hbins trivial⟩
  · by_cases hs : r.state = .sweeping
    · have hclosed := s.seq.closedMembers_le.trans h.members
      have := h.sweeping r hr hs
      omega
    · exact h.swept r hr hs

end Sys2Proof.Machine

/-! What is driven is a group in DWELL, and so its members alone: emission is sound. -/

namespace Sys2Proof.Machine

/-! ### Rows and columns (R33) -/

/-- A group drives the rows of its members. -/
theorem FiringGroup.rows_getLsbD {g : FiringGroup} (hlead : g.lead < 64) (hpair : g.paired = true → g.lead < 32) {i : Nat}
    (hi : g.rows.getLsbD i = true) : i = g.lead / 8 ∨ (g.paired = true ∧ i = g.lead / 8 + 4) := by
  unfold FiringGroup.rows at hi
  rw [BitVec.getLsbD_ofNat, Bool.and_eq_true] at hi
  obtain ⟨hlt, hi⟩ := hi
  have hlt : i < 8 := of_decide_eq_true hlt
  split at hi
  next hp =>
    have hrow : ∀ (a : Fin 4) (i : Fin 8), (2 ^ a.val + 2 ^ (a.val + 4)).testBit i.val = true →
        i.val = a.val ∨ i.val = a.val + 4 := by decide
    have ha : g.lead / 8 < 4 := by have := hpair hp; omega
    exact (hrow ⟨g.lead / 8, ha⟩ ⟨i, hlt⟩ hi).imp_right fun h => ⟨hp, h⟩
  next => exact .inl (by simpa [Nat.testBit_two_pow, eq_comm] using hi)

/-- A group drives the column of its members. -/
theorem FiringGroup.cols_getLsbD {g : FiringGroup} {i : Nat} (hi : g.cols.getLsbD i = true) : i = g.lead % 8 := by
  unfold FiringGroup.cols at hi
  rw [BitVec.getLsbD_ofNat, Bool.and_eq_true] at hi
  simpa [Nat.testBit_two_pow, eq_comm] using hi.2

/-- An element whose row and column a group drives is its member. -/
theorem FiringGroup.mem_of_driven {g : FiringGroup} (hg : ∀ i ∈ g.members, i < 64) {e : Fin 64}
    (hrow : g.rows.getLsbD (e.val / 8) = true) (hcol : g.cols.getLsbD (e.val % 8) = true) : e.val ∈ g.members := by
  have hlead : g.lead < 64 := hg _ (FiringGroup.mem_members.2 (.inl rfl))
  have hpair : g.paired = true → g.lead < 32 := fun hp => by
    have := hg _ (FiringGroup.mem_members.2 (.inr ⟨hp, rfl⟩))
    omega
  have hcol := FiringGroup.cols_getLsbD hcol
  obtain hrow | ⟨hp, hrow⟩ := FiringGroup.rows_getLsbD hlead hpair hrow
  · exact FiringGroup.mem_members.2 (.inl (by omega))
  · exact FiringGroup.mem_members.2 (.inr ⟨hp, by omega⟩)

/-- Only the members of the group in DWELL are driven. -/
theorem InFlightSound.driven {s : State} {e : Fin 64} (h : InFlightSound s) (hg : ∀ g ∈ s.seq.groups, ∀ i ∈ g.members, i < 64)
    (he : s.seq.drives e = true) : s.seq.sweep ≠ .idle ∧ ∃ g ∈ s.seq.groups, e.val ∈ g.members := by
  obtain ⟨hrow, hcol⟩ := Bool.and_eq_true_iff.1 he
  have released : s.seq.rows ≠ 0 := fun h0 => by simp [h0] at hrow
  unfold InFlightSound at h
  cases hs : s.seq.sweep with
  | idle =>
    rw [hs] at h
    obtain ⟨⟨hrows, -⟩, -⟩ := h
    exact absurd hrows released
  | waiting =>
    rw [hs] at h
    obtain ⟨⟨hrows, -⟩, -⟩ := h
    exact absurd hrows released
  | dwell k =>
    rw [hs] at h
    obtain ⟨g, hgk, -, hrows, hcols, -⟩ := h
    have hmem := List.mem_of_getElem? hgk
    cases hl : s.resetAsserted with
    | true =>
      rw [hl, if_pos rfl] at hrows
      exact absurd hrows released
    | false =>
      rw [hl, if_neg Bool.false_ne_true] at hrows hcols
      rw [hrows] at hrow
      rw [hcols] at hcol
      exact ⟨nofun, g, hmem, FiringGroup.mem_of_driven (hg g hmem) hrow hcol⟩
  | gap k =>
    rw [hs] at h
    obtain ⟨-, ⟨hrows, -⟩, -⟩ := h
    exact absurd hrows released

/-- Settles O60: the invariant with what is known of each element to be fired; what is driven is a member of a group. -/
theorem emissionKept : Obligations.EmissionKept := by
  refine ⟨fun s t ⟨hfired, hin, hstore, hodo⟩ he => ?_, fun s e h hin he => ?_⟩
  · obtain ⟨hsound, hodo⟩ := soundKept False True s t ⟨sound_iff.2 ⟨hstore, hin, False.elim, fun _ => hfired⟩, hodo⟩ he
    obtain ⟨hstore, hin, -, hfired⟩ := sound_iff.1 hsound
    exact ⟨hfired trivial, hin, hstore, hodo⟩
  · have hlt : ∀ g ∈ s.seq.groups, ∀ i ∈ g.members, i < 64 := fun g hg i hi => by
      obtain ⟨-, -, -, k, -, -, -, rfl, -⟩ := h.fired g hg i hi
      exact k.isLt
    obtain ⟨hflight, g, hg, hmem⟩ := hin.driven hlt he
    obtain ⟨hd, w, table, k, hhead, hw, htable, hk, henabled, hclear⟩ := h.fired g hg e.val hmem
    obtain rfl : k = e := Fin.ext hk
    exact ⟨h.run hflight, hd, w, table, hhead, hw, htable, henabled, hclear⟩

end Sys2Proof.Machine

/-! The echo processor: an echo's arrival, its range, point and radius, its quality, and the interpolated sine they use. -/

namespace Sys2Proof.Machine

/-! ### The integer square root (00_scope.md, Roundings) -/

/-- A root known to lie in r..r + 2^k - 1 is found by its lowest k bits. -/
theorem isqrtBits_spec {n : Nat} (k r : Nat) (hlo : r * r ≤ n) (hhi : n < (r + 2 ^ k) * (r + 2 ^ k)) :
    isqrtBits n k r * isqrtBits n k r ≤ n ∧ n < (isqrtBits n k r + 1) * (isqrtBits n k r + 1) := by
  induction k generalizing r with
  | zero => exact ⟨hlo, hhi⟩
  | succ k ih =>
    unfold isqrtBits
    by_cases hbit : (r + 2 ^ k) * (r + 2 ^ k) ≤ n
    · rw [if_pos hbit]
      exact ih _ hbit (by rwa [Nat.add_assoc, ← Nat.two_mul, ← Nat.pow_succ'])
    · rw [if_neg hbit]
      exact ih _ hlo (Nat.not_le.1 hbit)

/-- The integer square root is the greatest integer whose square does not exceed the number. -/
theorem isqrt_spec (n : Nat) : isqrt n * isqrt n ≤ n ∧ n < (isqrt n + 1) * (isqrt n + 1) := by
  refine isqrtBits_spec _ 0 (Nat.zero_le n) ?_
  rw [Nat.zero_add, ← Nat.pow_add]
  calc n < 2 ^ (n.log2 + 1) := Nat.lt_log2_self
    _ ≤ 2 ^ (n.log2 / 2 + 1 + (n.log2 / 2 + 1)) := Nat.pow_le_pow_right (by omega) (by omega)

/-! ### The sine table and its interpolation (R59, R60) -/

/-- The entries ascend along each of the eight rows, and from its end to the next. -/
theorem quarterSine_row_ascends : ∀ i < 8, ∀ j < 32, quarterSine (32 * i + j) < quarterSine (32 * i + j + 1) := by decide

/-- The first quarter of the sine ascends. -/
theorem quarterSine_lt_succ {k : Nat} (hk : k < 256) : quarterSine k < quarterSine (k + 1) := by
  simpa only [Nat.div_add_mod] using quarterSine_row_ascends (k / 32) (by omega) (k % 32) (Nat.mod_lt _ (by omega))

theorem quarterSine_le {k : Nat} (hk : k ≤ 256) : quarterSine k ≤ 32767 := by
  induction hk using Nat.decreasingInduction with
  | self => exact Nat.le_refl _
  | of_succ k hk ih => exact (quarterSine_lt_succ hk).le.trans ih

theorem sineTable_mod (k : Nat) : sineTable (k % 1024) = sineTable k := by
  unfold sineTable
  rw [Nat.mod_mod]

section
variable {k : Nat}

theorem sineTable_first (hk : k ≤ 256) : sineTable k = quarterSine k := by
  unfold sineTable
  rw [Nat.mod_eq_of_lt (by omega)]
  exact if_pos hk

theorem sineTable_second (hlo : 256 ≤ k) (hhi : k ≤ 512) : sineTable k = quarterSine (512 - k) := by
  obtain rfl | hlo := hlo.eq_or_lt
  · exact sineTable_first le_rfl
  · unfold sineTable
    rw [Nat.mod_eq_of_lt (by omega)]
    dsimp only
    rw [if_neg (by omega), if_pos hhi]

theorem sineTable_third (hlo : 512 ≤ k) (hhi : k ≤ 768) : sineTable k = -quarterSine (k - 512) := by
  obtain rfl | hlo := hlo.eq_or_lt
  · decide
  · unfold sineTable
    rw [Nat.mod_eq_of_lt (by omega)]
    dsimp only
    rw [if_neg (by omega), if_neg (by omega), if_pos hhi]

theorem sineTable_fourth (hlo : 768 ≤ k) (hhi : k < 1024) : sineTable k = -quarterSine (1024 - k) := by
  obtain rfl | hlo := hlo.eq_or_lt
  · exact sineTable_third (by omega) le_rfl
  · unfold sineTable
    rw [Nat.mod_eq_of_lt hhi]
    dsimp only
    rw [if_neg (by omega), if_neg (by omega), if_neg (by omega)]

/-- The second quarter is the first one backwards. -/
theorem sineTable_mirror (hk : k ≤ 512) : sineTable (512 - k) = sineTable k := by
  obtain hq | hq := Nat.le_total k 256
  · rw [sineTable_first hq, sineTable_second (by omega) (by omega), Nat.sub_sub_self hk]
  · rw [sineTable_second hq hk, sineTable_first (by omega)]

/-- Half a turn on from the first half turn, the sign changes. -/
theorem sineTable_half_of_lt (hk : k < 512) : sineTable (k + 512) = -sineTable k := by
  obtain hq | hq := Nat.le_total k 256
  · rw [sineTable_first hq, sineTable_third (by omega) (by omega), Nat.add_sub_cancel]
  · rw [sineTable_second hq hk.le, sineTable_fourth (by omega) (by omega),
      show 1024 - (k + 512) = 512 - k by omega]

end

theorem sineTable_turn (k : Nat) : sineTable (k + 1024) = sineTable k := by
  rw [← sineTable_mod, Nat.add_mod_right, sineTable_mod]

theorem sineTable_half (k : Nat) : sineTable (k + 512) = -sineTable k := by
  have hlt := Nat.mod_lt k (show 0 < 1024 by omega)
  rw [← sineTable_mod k, ← sineTable_mod (k + 512), ← Nat.mod_add_mod]
  generalize k % 1024 = i at hlt ⊢
  rw [sineTable_mod]
  obtain hi | hi := Nat.lt_or_ge i 512
  · exact sineTable_half_of_lt hi
  · obtain ⟨j, rfl⟩ := Nat.exists_eq_add_of_le' hi
    rw [Nat.add_assoc, sineTable_turn, sineTable_half_of_lt (by omega), neg_neg]

/-- An entry of any quarter is one of the first, or its negation. -/
theorem sineTable_eq_quarter (k : Nat) : ∃ j ≤ 256, sineTable k = quarterSine j ∨ sineTable k = -quarterSine j := by
  have hlt := Nat.mod_lt k (show 0 < 1024 by omega)
  unfold sineTable
  dsimp only
  split_ifs with hfirst hsecond hthird
  · exact ⟨k % 1024, hfirst, .inl rfl⟩
  · exact ⟨512 - k % 1024, by omega, .inl rfl⟩
  · exact ⟨k % 1024 - 512, by omega, .inr rfl⟩
  · exact ⟨1024 - k % 1024, by omega, .inr rfl⟩

theorem sineTable_bounds (k : Nat) : -32767 ≤ sineTable k ∧ sineTable k ≤ 32767 := by
  obtain ⟨j, hj, hk⟩ := sineTable_eq_quarter k
  have := quarterSine_le hj
  omega

theorem sineTable_lt_succ {k : Nat} (hk : k < 256) : sineTable k < sineTable (k + 1) := by
  rw [sineTable_first hk.le, sineTable_first hk]
  exact_mod_cast quarterSine_lt_succ hk

/-- A rounded interpolation between two integers lies between them. -/
theorem interpolation_between (u v : Int) {f : Nat} (hf : f ≤ 64) :
    min u v ≤ u + roundHalfAway ((v - u) * f) 64 ∧ u + roundHalfAway ((v - u) * f) 64 ≤ max u v := by
  obtain ⟨hnear, -⟩ := roundHalfAway_nearest ((v - u) * f) (q := 64) (by omega)
  obtain ⟨hlo, hhi⟩ := abs_le.1 (show |((64 : Nat) : Int) * roundHalfAway ((v - u) * f) 64 - (v - u) * f| ≤ 32 by omega)
  have hf : (f : Int) ≤ 64 := by exact_mod_cast hf
  obtain huv | huv := le_total u v
  · have hpos : 0 ≤ (v - u) * f := mul_nonneg (by omega) (by omega)
    have hle : (v - u) * f ≤ (v - u) * 64 := mul_le_mul_of_nonneg_left hf (by omega)
    omega
  · have hneg : (v - u) * f ≤ 0 := mul_nonpos_of_nonpos_of_nonneg (by omega) (by omega)
    have hge : (v - u) * 64 ≤ (v - u) * f := mul_le_mul_of_nonpos_left hf (by omega)
    omega

theorem sine_between (a : Int) :
    min (sineTable (reduceAngle a / 64)) (sineTable (reduceAngle a / 64 + 1)) ≤ sine a
      ∧ sine a ≤ max (sineTable (reduceAngle a / 64)) (sineTable (reduceAngle a / 64 + 1)) :=
  interpolation_between _ _ (Nat.mod_lt _ (by omega)).le

theorem sine_eq_entry {a : Int} (h : reduceAngle a % 64 = 0) : sine a = sineTable (reduceAngle a / 64) := by
  simp [sine, h, roundHalfAway]

theorem sine_turn (a : Int) : sine (a + 65536) = sine a := by
  have hreduce : reduceAngle (a + 65536) = reduceAngle a := congrArg Int.toNat (Int.add_emod_right a 65536)
  simp only [sine, hreduce]

/-- Settles O29: the interpolation lies between neighbouring entries, and the quarters of the table mirror the first. -/
theorem interpolatedSine : Obligations.InterpolatedSine := by
  refine ⟨fun a => ?_, fun k => ⟨sineTable_turn k, sineTable_half k, sineTable_mirror, sineTable_lt_succ⟩, by decide⟩
  obtain ⟨hlo, hhi⟩ := sine_between a
  have hi := sineTable_bounds (reduceAngle a / 64)
  have hi' := sineTable_bounds (reduceAngle a / 64 + 1)
  exact ⟨hlo, hhi, sine_eq_entry, by omega, by omega, sine_turn a, rfl⟩

/-! ### Range, point and quality (R57, R58, R62, R63, R66) -/

/-- Settles O25: the product is at most 1,048,575 × 400,000, and its rounded quotient is the division's. -/
theorem rangeOfEcho : Obligations.RangeOfEcho := by
  intro ks tof offset htof _ hks hlo hhi raw
  have hprod : tof * ks ≤ 1048575 * 400000 := Nat.mul_le_mul htof hks
  have hrange : rangeOf ks offset tof = (raw : Int) - offset := rfl
  have hraw : raw = (tof * ks + 32768) / 65536 := rfl
  omega

/-- The radius of a point is the integer square root of x² + y². -/
theorem radiusOf_spec (x y : Int) : ((radiusOf x y * radiusOf x y : Nat) : Int) ≤ x * x + y * y
    ∧ x * x + y * y < (((radiusOf x y + 1) * (radiusOf x y + 1) : Nat) : Int) := by
  have hsum : x * x + y * y = ((x.natAbs * x.natAbs + y.natAbs * y.natAbs : Nat) : Int) := by
    rw [Int.natCast_add, Int.natAbs_mul_self, Int.natAbs_mul_self]
  rw [hsum]
  exact_mod_cast isqrt_spec _

theorem one_le_radiusOf {x y : Int} (h : ¬ (x = 0 ∧ y = 0)) : 1 ≤ radiusOf x y := by
  by_contra hr
  obtain ⟨-, hlt⟩ := radiusOf_spec x y
  rw [Nat.lt_one_iff.1 (Nat.not_le.1 hr)] at hlt
  have hx := mul_self_nonneg x
  have hy := mul_self_nonneg y
  exact h ⟨mul_self_eq_zero.1 (by omega), mul_self_eq_zero.1 (by omega)⟩

section
variable {v : Survey} {g : Geometry} {offset : Int} {e : EchoRecord}

theorem disposalOf_far (htof : v.tofMin ≤ e.tof.toNat) (hmin : (v.dMin : Int) ≤ rangeOf v.ks offset e.tof.toNat)
    (hmax : (v.dMax : Int) < rangeOf v.ks offset e.tof.toNat) : disposalOf v g offset e = .far := by
  unfold disposalOf
  dsimp only
  rw [if_neg (by omega), if_pos hmax]

/-- An echo within the limits of time and range is judged by its point. -/
theorem disposalOf_point (htof : v.tofMin ≤ e.tof.toNat) (hmin : (v.dMin : Int) ≤ rangeOf v.ks offset e.tof.toNat)
    (hmax : rangeOf v.ks offset e.tof.toNat ≤ v.dMax) {x y : Int}
    (hp : pointOf g (g.beams.getD e.element.val 0) (rangeOf v.ks offset e.tof.toNat) = (x, y)) :
    disposalOf v g offset e = if x = 0 ∧ y = 0 then .near else .valid x y (radiusOf x y) := by
  unfold disposalOf
  dsimp only
  rw [if_neg (by omega), if_neg (by omega), hp]

end

/-- Settles O26: the tests in order, and the radius of a point that is not the origin. -/
theorem disposalOfEcho : Obligations.DisposalOfEcho := by
  intro v g offset e d beam x y
  refine ⟨fun h => if_pos h, disposalOf_far, fun htof hmin hmax hx hy => ?_, fun htof hmin hmax hxy => ?_⟩
  · exact (disposalOf_point htof hmin hmax rfl).trans (if_pos ⟨hx, hy⟩)
  · exact ⟨radiusOf x y, (disposalOf_point htof hmin hmax rfl).trans (if_neg hxy), one_le_radiusOf hxy, radiusOf_spec x y⟩

/-- Settles O27: a saturated echo counts 1, an amplitude is a byte, and a suspect one's quality is halved. -/
theorem qualityOfEcho : Obligations.QualityOfEcho := by
  intro e suspect
  have hamp : e.amplitude.toNat ≤ 255 := Nat.le_of_lt_succ e.amplitude.isLt
  have hq : qualityOf e suspect = if suspect then (if e.saturated then 1 else e.amplitude.toNat) / 2
      else if e.saturated then 1 else e.amplitude.toNat := rfl
  rw [hq]
  refine ⟨rfl, ?_, fun hsat hsus => by simp [hsat, hsus], fun hone hsus => ?_⟩
  · split_ifs <;> omega
  · rw [if_pos hsus]
    split_ifs <;> omega

/-! ### The arrival of an echo (R52 to R54) -/

/-- A foreign echo is counted in the SWEEPING record, and recorded at the section's first. -/
theorem foreignEcho_eq {s : State} {r : SectionRecord} (hr : s.store.sweeping = some r) :
    let counted := s.onSweeping (SectionRecord.onSummary fun m => { m with foreign := min 65535 (m.foreign + 1) })
    foreignEcho s = if r.summary.foreign = 0 then record .foreignEcho counted else counted := by
  simp only [foreignEcho, hr]
  rfl

section
variable {members : List Member} {e : EchoRecord} {s : State}

theorem acceptEcho_nonMember (h : ∀ m ∈ members, m.element ≠ e.element.val) : acceptEcho members e s = foreignEcho s := by
  have hnone : members.find? (fun m => m.element == e.element.val) = none :=
    List.find?_eq_none.2 fun m hm => by simpa using h m hm
  simp only [acceptEcho, hnone]

variable {m : Member} (hm : (members.find? fun x => x.element == e.element.val) = some m)
include hm

theorem acceptEcho_foreign (h : e.codeMatch = false ∨ 2 ≤ m.held.length) :
    acceptEcho members e s = foreignEcho (s.onMember e.element.val fun m => { m with foreign := true }) := by
  simp only [acceptEcho, hm]
  exact if_pos (by simpa using h)

theorem acceptEcho_held (hcode : e.codeMatch = true) (hroom : m.held.length < 2) :
    acceptEcho members e s = s.onMember e.element.val fun m => { m with held := m.held ++ [e] } := by
  simp only [acceptEcho, hm]
  exact if_neg (by simpa [hcode] using hroom)

end

/-- An open acceptance is changed in the named element's member alone. -/
theorem State.onMember_eq {s : State} {members : List Member} (ha : s.echo.acceptance = some members) (element : Nat)
    (f : Member → Member) : s.onMember element f =
      { s with echo := { s.echo with acceptance := some (members.map fun m => if m.element = element then f m else m) } } := by
  simp only [State.onMember, State.onEcho, ha, Option.map_some]

/-- Settles O24: outside a dwell an echo is foreign; in one it is accepted, or foreign, by its member. -/
theorem echoArrival : Obligations.EchoArrival := by
  intro e s hl counted
  have harrives {t : State} (h : echoArrives e s = t) : exec (.echoRecord e) s = .next t :=
    (live_eq s (echoArrives e) hl).trans (congrArg _ h)
  refine ⟨fun hidle => harrives (by simp only [echoArrives, hidle]), fun r hr => ?_⟩
  intro told
  have htold : foreignEcho s = told := foreignEcho_eq hr
  refine ⟨fun hs => harrives ?_, fun k members hs ha => ?_⟩
  · obtain hwaiting | ⟨k, hgap⟩ := hs
    · simp only [echoArrives, hwaiting, htold]
    · simp only [echoArrives, hgap, htold]
  have haccept : echoArrives e s = acceptEcho members e s := by simp only [echoArrives, hs, ha]
  refine ⟨fun hother => harrives (haccept.trans ((acceptEcho_nonMember hother).trans htold)), fun m hm => ?_⟩
  intro marked counted'
  refine ⟨fun h => harrives (haccept.trans ?_), fun hcode hroom => harrives (haccept.trans ?_)⟩
  · rw [acceptEcho_foreign hm h, State.onMember_eq ha]
    exact foreignEcho_eq (s := marked) hr
  · rw [acceptEcho_held hm hcode hroom, State.onMember_eq ha]

end Sys2Proof.Machine

/-! The telegrams owed and the live local records, as the owed-telegram list sees them. -/

namespace Sys2Proof.Machine

/-! ### The telegrams owed -/

/-- The id of the record whose RAISE a telegram is. -/
def Telegram.raises (t : Telegram) : Option Nat :=
  match t.body with
  | .alert a => if a.isEnd then none else some a.id
  | _ => none

/-- A telegram raises an id, ends one, is a DRAINED, or is none of the three. -/
theorem Telegram.roles (t : Telegram) : t.isRaise = t.raises.isSome ∧ (∀ i : Nat, t.isRaiseOf i = true ↔ t.raises = some i)
    ∧ (t.isEnd = true → t.raises = none ∧ t.isDrained = false) ∧ (t.isDrained = true → t.raises = none ∧ t.isEnd = false) := by
  obtain ⟨target, body⟩ := t
  cases body with
  | alert a => cases ha : a.isEnd <;> simp [isRaise, isRaiseOf, isEnd, isDrained, raises, ha]
  | _ => simp [isRaise, isRaiseOf, isEnd, isDrained, raises]

theorem Telegram.isRaise_eq (t : Telegram) : t.isRaise = t.raises.isSome := t.roles.1

theorem Telegram.isRaiseOf_iff {t : Telegram} {i : Nat} : t.isRaiseOf i = true ↔ t.raises = some i := t.roles.2.1 i

theorem Telegram.of_isEnd {t : Telegram} (h : t.isEnd = true) : t.raises = none ∧ t.isDrained = false := t.roles.2.2.1 h

theorem Telegram.of_isDrained {t : Telegram} (h : t.isDrained = true) : t.raises = none ∧ t.isEnd = false := t.roles.2.2.2 h

theorem Telegram.of_raises {t : Telegram} {i : Nat} (h : t.raises = some i) : t.isEnd = false ∧ t.isDrained = false := by
  constructor <;> by_contra hc <;> rw [Bool.not_eq_false] at hc
  · exact absurd ((of_isEnd hc).1.symm.trans h) (by simp)
  · exact absurd ((of_isDrained hc).1.symm.trans h) (by simp)

theorem countP_isRaise (ts : List Telegram) : ts.countP Telegram.isRaise = (ts.filterMap Telegram.raises).length := by
  rw [List.length_filterMap_eq_countP]
  exact List.countP_congr fun t _ => by rw [Telegram.isRaise_eq]

/-- A list with one element at its end, cut at some element. -/
theorem concat_eq_append_cons {α : Type} {l before after : List α} {x y : α} (h : l ++ [x] = before ++ y :: after) :
    (before = l ∧ y = x ∧ after = []) ∨ ∃ rest, after = rest ++ [x] ∧ l = before ++ y :: rest := by
  obtain rfl | ⟨rest, z, rfl⟩ := List.eq_nil_or_concat after
  · obtain ⟨hl, hx⟩ := List.append_inj' h rfl
    exact .inl ⟨hl.symm, (List.singleton_inj.1 hx).symm, rfl⟩
  · rw [List.concat_eq_append, ← List.cons_append, ← List.append_assoc] at h
    obtain ⟨hl, hx⟩ := List.append_inj' h rfl
    exact .inr ⟨rest, by rw [List.concat_eq_append, List.singleton_inj.1 hx], hl⟩

/-! ### The live records of the owed telegrams -/

/-- What the owed-telegram list sees of a live local record: its id, and whether its RAISE is owed. -/
structure Ticket where
  id   : Option Nat
  owed : Bool

/-- The ticket of a record. -/
def LocalRecord.ticket (r : LocalRecord) : Ticket := ⟨r.id, r.owed⟩

namespace Ticket

/-- The id whose RAISE is owed. -/
def owing (k : Ticket) : Option Nat := if k.owed then k.id else none

/-- The record has an id, and its RAISE is not owed. -/
def announced (k : Ticket) : Bool := k.id.isSome && !k.owed

/-- The RAISE of an id is owed no longer. -/
def paid (raised : Option Nat) (k : Ticket) : Ticket := if k.id.isSome && decide (k.id = raised) then ⟨k.id, false⟩ else k

end Ticket

/-- A record owes a RAISE or has been announced, and none does both. -/
theorem owing_add_announced_le (live : List Ticket) :
    (live.filterMap Ticket.owing).length + live.countP Ticket.announced ≤ live.length := by
  induction live with
  | nil => exact Nat.le_refl _
  | cons k live ih =>
    obtain ⟨_ | i, _ | _⟩ := k <;> simp [Ticket.owing, Ticket.announced] at ih ⊢ <;> omega

theorem mem_owing {live : List Ticket} {i : Nat} : i ∈ live.filterMap Ticket.owing ↔ ⟨some i, true⟩ ∈ live := by
  rw [List.mem_filterMap]
  constructor
  · rintro ⟨⟨id, owed⟩, hk, h⟩
    cases owed
    · exact absurd h (by simp [Ticket.owing])
    · obtain rfl : id = some i := h
      exact hk
  · exact fun h => ⟨_, h, rfl⟩

theorem owing_sublist (live : List Ticket) : (live.filterMap Ticket.owing).Sublist (live.filterMap Ticket.id) := by
  induction live with
  | nil => exact .slnil
  | cons k live ih =>
    obtain ⟨_ | i, _ | _⟩ := k
    · exact ih
    · exact ih
    · exact ih.cons i
    · exact ih.cons_cons i

end Sys2Proof.Machine

/-! The ledger: the owed telegrams beside the live local records, and what each operation on either keeps of it. -/

namespace Sys2Proof.Machine

/-! ### The ledger of owed telegrams -/

/-- The owed telegrams and the live local records agree: at most 16 records beside the peers, distinct ids, the RAISEs owed those of
the records that owe one, and the argument for the bound on ENDs. The live records are those of the watch table, and any that an
evaluation has taken out of it and not yet dealt with. -/
structure Ledger (peers : Nat) (owed : List Telegram) (live : List Ticket) : Prop where
  capacity : live.length + peers ≤ 16
  ids      : (live.filterMap Ticket.id).Nodup
  raises   : (owed.filterMap Telegram.raises).Perm (live.filterMap Ticket.owing)
  alive    : ∀ (before after : List Telegram) (t : Telegram), owed = before ++ t :: after →
    before.countP Telegram.isRaise + (if t.isRaise then 1 else 0) + (t :: after).countP Telegram.isEnd
      + live.countP Ticket.announced ≤ 16
  kinds    : ∀ t ∈ owed, t.isRaise = true ∨ t.isEnd = true ∨ t.isDrained = true
  drained  : owed.countP Telegram.isDrained ≤ 8

namespace Ledger

variable {peers : Nat} {owed rest : List Telegram} {live live' : List Ticket} {k : Ticket} {t : Telegram} {i : Nat}

/-- What is owed and what has been announced have each a live record. -/
theorem raises_add_announced_le (h : Ledger peers owed live) :
    owed.countP Telegram.isRaise + live.countP Ticket.announced ≤ live.length := by
  rw [countP_isRaise, h.raises.length_eq]
  exact owing_add_announced_le live

/-- At most 16 RAISEs, 16 ENDs and 8 DRAINED are owed (R148). -/
theorem limit (h : Ledger peers owed live) : owed.length ≤ 40 := by
  have hraises := h.raises_add_announced_le
  have hcapacity := h.capacity
  have hends : owed.countP Telegram.isEnd ≤ 16 := by
    cases owed with
    | nil => exact Nat.zero_le _
    | cons t owed =>
      have := h.alive [] owed t rfl
      omega
  have hall : ∀ ts : List Telegram, (∀ t ∈ ts, t.isRaise = true ∨ t.isEnd = true ∨ t.isDrained = true) →
      ts.length ≤ ts.countP Telegram.isRaise + ts.countP Telegram.isEnd + ts.countP Telegram.isDrained := by
    intro ts hts
    induction ts with
    | nil => exact Nat.le_refl _
    | cons t ts ih =>
      obtain ⟨ht, hts⟩ := List.forall_mem_cons.1 hts
      have := ih hts
      simp only [List.countP_cons, List.length_cons]
      obtain ht | ht | ht := ht <;> rw [if_pos ht] <;> omega
  have := hall owed h.kinds
  have := h.drained
  omega

/-- With nothing owed there is nothing but the ids to look at. -/
theorem nil_iff : Ledger peers [] live ↔
    live.length + peers ≤ 16 ∧ (live.filterMap Ticket.id).Nodup ∧ live.filterMap Ticket.owing = [] :=
  ⟨fun h => ⟨h.capacity, h.ids, List.perm_nil.1 h.raises.symm⟩,
    fun ⟨hcapacity, hids, howing⟩ => ⟨hcapacity, hids, by rw [howing]; exact .nil, by simp, by simp, by simp⟩⟩

theorem perm (h : Ledger peers owed live) (hp : live.Perm live') : Ledger peers owed live' where
  capacity := hp.length_eq ▸ h.capacity
  ids := (hp.filterMap _).nodup_iff.1 h.ids
  raises := h.raises.trans (hp.filterMap _)
  alive before after t e := hp.countP_eq _ ▸ h.alive before after t e
  kinds := h.kinds
  drained := h.drained

/-- Other peers, within the capacity. -/
theorem withPeers {n : Nat} (h : Ledger peers owed live) (hn : live.length + n ≤ 16) : Ledger n owed live :=
  ⟨hn, h.ids, h.raises, h.alive, h.kinds, h.drained⟩

/-- Records without an id may go. -/
theorem forget (h : Ledger peers owed live) (hs : live'.Sublist live) (hk : live'.filterMap Ticket.owing = live.filterMap Ticket.owing) :
    Ledger peers owed live' where
  capacity := (Nat.add_le_add_right hs.length_le _).trans h.capacity
  ids := (hs.filterMap _).nodup h.ids
  raises := hk ▸ h.raises
  alive before after t e := (Nat.add_le_add_left (hs.countP_le) _).trans (h.alive before after t e)
  kinds := h.kinds
  drained := h.drained

/-- A record without an id joins. -/
theorem open_pending (h : Ledger peers owed live) (hroom : live.length + peers < 16) : Ledger peers owed (⟨none, false⟩ :: live) :=
  ⟨by rw [List.length_cons]; omega, h.ids, h.raises, h.alive, h.kinds, h.drained⟩

/-- With a slot free in group A, a record is announced at once. -/
theorem announce (h : Ledger peers [] live) (hroom : live.length + peers < 16) (hi : i ∉ live.filterMap Ticket.id) :
    Ledger peers [] (⟨some i, false⟩ :: live) := by
  obtain ⟨-, hids, howing⟩ := nil_iff.1 h
  exact nil_iff.2 ⟨by rw [List.length_cons]; omega, List.nodup_cons.2 ⟨hi, hids⟩, howing⟩

/-- Without one, its RAISE is owed. -/
theorem owe_raise (h : Ledger peers owed live) (hroom : live.length + peers < 16) (hi : i ∉ live.filterMap Ticket.id)
    (ht : t.raises = some i) : Ledger peers (owed ++ [t]) (⟨some i, true⟩ :: live) := by
  obtain ⟨hend, hdrained⟩ := Telegram.of_raises ht
  have hraise : t.isRaise = true := by rw [Telegram.isRaise_eq, ht]; rfl
  refine ⟨by rw [List.length_cons]; omega, List.nodup_cons.2 ⟨hi, h.ids⟩, ?_, fun before after u e => ?_, ?_, ?_⟩
  · have hone : [t].filterMap Telegram.raises = [i] := by simp [ht]
    rw [List.filterMap_append, hone]
    exact (List.perm_append_singleton _ _).trans (h.raises.cons i)
  · have hannounced : (⟨some i, true⟩ :: live : List Ticket).countP Ticket.announced = live.countP Ticket.announced := rfl
    rw [hannounced]
    obtain ⟨rfl, rfl, rfl⟩ | ⟨after, rfl, hcut⟩ := concat_eq_append_cons e
    · have := h.raises_add_announced_le
      simp [hraise, hend]
      omega
    · have := h.alive before after u hcut
      simpa [List.countP_cons, List.countP_append, hend] using this
  · simpa [or_imp, forall_and, hraise] using h.kinds
  · simpa [List.countP_append, hdrained] using h.drained

/-- A DRAINED is owed. -/
theorem owe_drained (h : Ledger peers owed live) (ht : t.isDrained = true) (hroom : owed.countP Telegram.isDrained < 8) :
    Ledger peers (owed ++ [t]) live := by
  obtain ⟨hraises, hend⟩ := Telegram.of_isDrained ht
  have hraise : t.isRaise = false := by rw [Telegram.isRaise_eq, hraises]; rfl
  refine ⟨h.capacity, h.ids, ?_, fun before after u e => ?_, ?_, ?_⟩
  · simpa [List.filterMap_append, hraises] using h.raises
  · obtain ⟨rfl, rfl, rfl⟩ | ⟨after, rfl, hcut⟩ := concat_eq_append_cons e
    · have := h.raises_add_announced_le
      have := h.capacity
      simp [hraise, hend]
      omega
    · have := h.alive before after u hcut
      simpa [List.countP_cons, List.countP_append, hend] using this
  · simpa [or_imp, forall_and, ht] using h.kinds
  · simpa [List.countP_append, ht] using hroom

/-- An announced record goes: its END is owed. -/
theorem owe_end (h : Ledger peers owed (⟨some i, false⟩ :: live)) (ht : t.isEnd = true) : Ledger peers (owed ++ [t]) live := by
  obtain ⟨hraises, hdrained⟩ := Telegram.of_isEnd ht
  have hraise : t.isRaise = false := by rw [Telegram.isRaise_eq, hraises]; rfl
  have hcapacity := h.capacity
  rw [List.length_cons] at hcapacity
  have hannounced : (⟨some i, false⟩ :: live : List Ticket).countP Ticket.announced = live.countP Ticket.announced + 1 := by
    simp [Ticket.announced]
  refine ⟨by omega, (List.nodup_cons.1 h.ids).2, ?_, fun before after u e => ?_, ?_, ?_⟩
  · rw [List.filterMap_append, List.filterMap_cons_none hraises, List.filterMap_nil, List.append_nil]
    exact h.raises
  · obtain ⟨rfl, rfl, rfl⟩ | ⟨after, rfl, hcut⟩ := concat_eq_append_cons e
    · have hle := h.raises_add_announced_le
      rw [hannounced, List.length_cons] at hle
      simp [hraise, ht]
      omega
    · have hle := h.alive before after u hcut
      rw [hannounced] at hle
      simp [List.countP_cons, List.countP_append, ht] at hle ⊢
      omega
  · simpa [or_imp, forall_and, ht] using h.kinds
  · simpa [List.countP_append, hdrained] using h.drained

/-- A record goes with nothing owed. -/
theorem leave (h : Ledger peers [] (k :: live)) : Ledger peers [] live := by
  obtain ⟨hcapacity, hids, howing⟩ := nil_iff.1 h
  refine nil_iff.2 ⟨(Nat.add_le_add_right (Nat.le_succ _) _).trans hcapacity, ?_, ?_⟩
  · exact ((List.sublist_cons_self k live).filterMap _).nodup hids
  · exact List.eq_nil_of_sublist_nil (howing ▸ (List.sublist_cons_self k live).filterMap _)

/-- A record whose RAISE is owed goes: the RAISE is withdrawn. -/
theorem withdraw (h : Ledger peers owed (⟨some i, true⟩ :: live)) : Ledger peers (owed.filter fun t => !t.isRaiseOf i) live := by
  have hcapacity := h.capacity
  rw [List.length_cons] at hcapacity
  obtain ⟨hi, hids⟩ := List.nodup_cons.1 h.ids
  have hkept : ∀ ts : List Telegram, (ts.filter fun t => !t.isRaiseOf i).filterMap Telegram.raises
      = (ts.filterMap Telegram.raises).filter (fun j => decide (j ≠ i)) := by
    intro ts
    induction ts with
    | nil => rfl
    | cons t ts ih =>
      cases hr : t.raises with
      | none =>
        have : t.isRaiseOf i = false := by rw [← Bool.not_eq_true, Telegram.isRaiseOf_iff, hr]; simp
        simp [this, hr, ih]
      | some j =>
        by_cases hj : j = i
        · have : t.isRaiseOf i = true := Telegram.isRaiseOf_iff.2 (hj ▸ hr)
          simp [this, hr, ih, hj]
        · have : t.isRaiseOf i = false := by rw [← Bool.not_eq_true, Telegram.isRaiseOf_iff, hr]; simpa using hj
          simp [this, hr, ih, hj]
  refine ⟨by omega, hids, ?_, fun before after u e => ?_, fun t ht => h.kinds t (List.mem_of_mem_filter ht), ?_⟩
  · rw [hkept]
    refine (h.raises.filter _).trans (.of_eq ?_)
    have hne : ∀ j ∈ live.filterMap Ticket.owing, j ≠ i := fun j hj hji => hi (hji ▸ (owing_sublist live).subset hj)
    change List.filter _ (i :: live.filterMap Ticket.owing) = _
    rw [List.filter_cons_of_neg (by simp)]
    exact List.filter_eq_self.2 fun j hj => by simpa using hne j hj
  · obtain ⟨before', tail, rfl, rfl, htail⟩ := List.filter_eq_append_iff.1 e
    obtain ⟨skipped, after', rfl, -, -, rfl⟩ := List.filter_eq_cons_iff.1 htail
    have hle := h.alive (before' ++ skipped) after' u (by simp)
    have hraise := (List.filter_sublist (p := fun t : Telegram => !t.isRaiseOf i) (l := before')).countP_le (p := Telegram.isRaise)
    have hend := (List.filter_sublist (p := fun t : Telegram => !t.isRaiseOf i) (l := after')).countP_le (p := Telegram.isEnd)
    have hannounced : (⟨some i, true⟩ :: live : List Ticket).countP Ticket.announced = live.countP Ticket.announced := rfl
    rw [hannounced, List.countP_append, List.countP_cons] at hle
    rw [List.countP_cons]
    omega
  · exact (List.filter_sublist.countP_le).trans h.drained

/-- The oldest owed telegram goes, and a RAISE owed before is announced. -/
theorem pay (h : Ledger peers (t :: rest) live) : Ledger peers rest (live.map (Ticket.paid t.raises)) := by
  have later : ∀ before after u, rest = before ++ u :: after → t :: rest = (t :: before) ++ u :: after :=
    fun _ _ _ e => by rw [e]; rfl
  have hkinds : ∀ u ∈ rest, u.isRaise = true ∨ u.isEnd = true ∨ u.isDrained = true := fun u hu => h.kinds u (List.mem_cons_of_mem _ hu)
  have hdrained : rest.countP Telegram.isDrained ≤ 8 := ((List.sublist_cons_self t rest).countP_le).trans h.drained
  cases ht : t.raises with
  | none =>
    have hsame : live.map (Ticket.paid none) = live :=
      (List.map_congr_left fun k _ => by obtain ⟨_ | i, _⟩ := k <;> rfl).trans (List.map_id _)
    rw [hsame]
    refine ⟨h.capacity, h.ids, ?_, fun before after u e => ?_, hkinds, hdrained⟩
    · exact List.filterMap_cons_none ht ▸ h.raises
    · have hle := h.alive (t :: before) after u (later _ _ _ e)
      rw [List.countP_cons] at hle
      omega
  | some i =>
    have howed : ⟨some i, true⟩ ∈ live := mem_owing.1 (h.raises.subset (by rw [List.filterMap_cons_some ht]; exact List.mem_cons_self))
    obtain ⟨others, hp⟩ : ∃ others, live.Perm (⟨some i, true⟩ :: others) := by
      obtain ⟨front, back, hcut⟩ := List.append_of_mem howed
      exact ⟨front ++ back, hcut ▸ List.perm_middle⟩
    have h := h.perm hp
    obtain ⟨hi, hids⟩ := List.nodup_cons.1 h.ids
    have hothers : others.map (Ticket.paid (some i)) = others := by
      refine (List.map_congr_left fun k hk => ?_).trans (List.map_id _)
      have hne : k.id ≠ some i := fun hki => hi (List.mem_filterMap.2 ⟨k, hk, hki⟩)
      simp [Ticket.paid, hne]
    have hpaid : (⟨some i, false⟩ :: others).Perm (live.map (Ticket.paid (some i))) := by
      refine .trans (.of_eq ?_) (hp.map _).symm
      rw [List.map_cons, hothers]
      simp [Ticket.paid]
    refine Ledger.perm (live := ⟨some i, false⟩ :: others) ⟨h.capacity, h.ids, ?_, fun before after u e => ?_, hkinds, hdrained⟩ hpaid
    · have := h.raises
      rw [List.filterMap_cons_some ht] at this
      exact this.cons_inv
    · have hle := h.alive (t :: before) after u (later _ _ _ e)
      have hraise : t.isRaise = true := by rw [Telegram.isRaise_eq, ht]; rfl
      simp [List.countP_cons, hraise, Ticket.announced] at hle ⊢
      omega

end Ledger
end Sys2Proof.Machine

/-! The invariant of the line, the watch unit and the bin lists, and that it is what the statement asks for. -/

namespace Sys2Proof.Machine

/-! ### The watch table, the line's queues and the bin lists -/

/-- The table in itself: spans apart, an id exactly where a record is not PENDING, and no RAISE owed without one. -/
structure TableSound (rs : List LocalRecord) : Prop where
  spans   : ∀ r ∈ rs, r.first ≤ r.last
  apart   : rs.Pairwise fun r q => r.last + 3 ≤ q.first
  pending : ∀ r ∈ rs, r.id = none ↔ r.state = .pending
  silent  : ∀ r ∈ rs, r.id = none → r.owed = false

/-- The queues of the line interface. -/
structure Traffic where
  queue : List Received
  a     : List Telegram
  b     : List Telegram
  c     : List Telegram

/-- What the line interface has queued. -/
def Line.traffic (l : Line) : Traffic := ⟨l.queue, l.groupA, l.groupB, l.groupC⟩

/-- The queues stay within their capacities. -/
structure Traffic.Within (t : Traffic) : Prop where
  queue : t.queue.length ≤ 4
  a     : t.a.length ≤ 4
  b     : t.b.length ≤ 8
  c     : t.c.length ≤ 8

/-- The bin list of a record is in strictly ascending bin number. -/
def SectionRecord.Ascends (r : SectionRecord) : Prop := r.bins.Pairwise fun b c => b.bin < c.bin

/-- The invariant of the line, the watch unit and the bin lists, for the tickets of the live local records. -/
structure Keeping (live : List Ticket) (t : Traffic) (w : Watch) (rs : List SectionRecord) : Prop where
  within : t.Within
  full   : w.owed ≠ [] → 4 ≤ t.a.length
  ledger : Ledger w.peers.length w.owed live
  table  : TableSound w.locals
  bins   : ∀ r ∈ rs, r.Ascends

/-- The invariant between commands: the live local records are those of the table. -/
def Bounded (s : State) : Prop := Keeping (s.watch.locals.map LocalRecord.ticket) s.line.traffic s.watch s.store.records

/-- The RAISEs owed under an id, counted. -/
theorem length_filter_isRaiseOf (ts : List Telegram) (i : Nat) :
    (ts.filter fun t => t.isRaiseOf i).length = (ts.filterMap Telegram.raises).count i := by
  rw [← List.countP_eq_length_filter, List.count_filterMap]
  exact List.countP_congr fun t _ => by rw [Telegram.isRaiseOf_iff, beq_iff_eq]

theorem pairwise_ids_iff (rs : List LocalRecord) : (rs.Pairwise fun r q => ∀ i : Nat, r.id = some i → q.id ≠ some i) ↔
    ((rs.map LocalRecord.ticket).filterMap Ticket.id).Nodup := by
  rw [List.filterMap_map, List.Nodup, List.pairwise_filterMap]
  refine List.Pairwise.iff fun r q => ?_
  constructor
  · rintro h i hi j hj rfl
    exact h i hi hj
  · exact fun h i hi hj => h i hi i hj rfl

section
variable {rs : List LocalRecord} {i : Nat} (hids : ((rs.map LocalRecord.ticket).filterMap Ticket.id).Nodup)

theorem count_owing_of_none (hi : ∀ r ∈ rs, r.id ≠ some i) : ((rs.map LocalRecord.ticket).filterMap Ticket.owing).count i = 0 := by
  refine List.count_eq_zero.2 fun h => ?_
  obtain ⟨r, hr, he⟩ := List.mem_map.1 (mem_owing.1 h)
  exact hi r hr (congrArg Ticket.id he)

include hids in
/-- Of an id that a record carries, a RAISE is owed once or not at all. -/
theorem count_owing {r : LocalRecord} (hr : r ∈ rs) (hi : r.id = some i) :
    ((rs.map LocalRecord.ticket).filterMap Ticket.owing).count i = if r.owed then 1 else 0 := by
  have hunique : ∀ q ∈ rs, q.id = some i → q = r := by
    intro q hq hqi
    by_contra hne
    have : Std.Symm fun x y : LocalRecord => ∀ j : Nat, x.id = some j → y.id ≠ some j := ⟨fun _ _ h j hy hx => h j hx hy⟩
    exact ((pairwise_ids_iff rs).2 hids).forall hq hr hne i hqi hi
  cases ho : r.owed with
  | true =>
    have hmem : (⟨some i, true⟩ : Ticket) ∈ rs.map LocalRecord.ticket :=
      List.mem_map.2 ⟨r, hr, by rw [LocalRecord.ticket, hi, ho]⟩
    exact List.count_eq_one_of_mem ((owing_sublist _).nodup hids) (mem_owing.2 hmem)
  | false =>
    refine List.count_eq_zero.2 fun h => ?_
    obtain ⟨q, hq, he⟩ := List.mem_map.1 (mem_owing.1 h)
    have := hunique q hq (congrArg Ticket.id he)
    rw [this] at he
    exact absurd (ho.symm.trans (congrArg Ticket.owed he)) Bool.false_ne_true

end

/-- The invariant in the statement's words. -/
theorem bounded_iff (s : State) : (LineWithinCapacity s ∧ OwedSound s ∧ WatchSound s ∧ BinsAscend s) ↔ Bounded s := by
  have hannounced : (s.watch.locals.filter LocalRecord.announced).length
      = (s.watch.locals.map LocalRecord.ticket).countP Ticket.announced := by
    rw [List.countP_map, List.countP_eq_length_filter]
    rfl
  constructor
  · rintro ⟨hline, howed, hwatch, hbins⟩
    have hids := (pairwise_ids_iff _).1 hwatch.ids
    refine ⟨⟨hline.queue, hline.groupA, hline.groupB, hline.groupC⟩, howed.full, ⟨?_, hids, ?_, ?_, howed.kinds, ?_⟩,
      ⟨hwatch.spans, hwatch.apart, hwatch.pending, hwatch.silent⟩, hbins⟩
    · rw [List.length_map]
      exact hwatch.capacity
    · refine List.perm_iff_count.2 fun i => ?_
      rw [← length_filter_isRaiseOf]
      by_cases hi : ∃ r ∈ s.watch.locals, r.id = some i
      · obtain ⟨r, hr, hi⟩ := hi
        rw [count_owing hids hr hi, hwatch.raises r hr i hi]
      · rw [count_owing_of_none fun r hr h => hi ⟨r, hr, h⟩, List.length_eq_zero_iff, List.filter_eq_nil_iff]
        exact fun t ht h => hi (hwatch.owners t ht i h)
    · intro before after t e
      rw [← hannounced, List.countP_eq_length_filter, List.countP_eq_length_filter]
      exact hwatch.alive before after t e
    · rw [List.countP_eq_length_filter]
      exact howed.drained
  · rintro ⟨⟨hqueue, ha, hb, hc⟩, hfull, hledger, ⟨hspans, hapart, hpending, hsilent⟩, hbins⟩
    refine ⟨⟨hqueue, ha, hb, hc⟩, ⟨hfull, hledger.kinds, ?_, hledger.limit⟩,
      ⟨?_, hspans, hapart, (pairwise_ids_iff _).2 hledger.ids, hpending, ?_, ?_, hsilent, ?_⟩, hbins⟩
    · rw [← List.countP_eq_length_filter]
      exact hledger.drained
    · rw [← List.length_map (f := LocalRecord.ticket)]
      exact hledger.capacity
    · intro r hr i hi
      rw [length_filter_isRaiseOf, hledger.raises.count_eq, count_owing hledger.ids hr hi]
    · intro t ht i hi
      have hmem := hledger.raises.subset (List.mem_filterMap.2 ⟨t, ht, Telegram.isRaiseOf_iff.1 hi⟩)
      obtain ⟨r, hr, he⟩ := List.mem_map.1 (mem_owing.1 hmem)
      exact ⟨r, hr, congrArg Ticket.id he⟩
    · intro before after t e
      rw [hannounced, ← List.countP_eq_length_filter, ← List.countP_eq_length_filter]
      exact hledger.alive before after t e

end Sys2Proof.Machine

/-! What the recording of an error kind, the transmit groups and the owed-telegram list keep of the invariant. -/

namespace Sys2Proof.Machine

variable {s u : State} {live : List Ticket}

/-! ### Updates that the invariant does not see -/

theorem SectionRecord.Ascends.of_bins {r r' : SectionRecord} (h : r.Ascends) (hb : r'.bins.map (·.bin) = r.bins.map (·.bin)) :
    r'.Ascends := by
  have hpair := List.pairwise_map.2 h
  rw [← hb] at hpair
  exact List.pairwise_map.1 hpair

/-- The invariant reads the queues of the line, the watch unit and the records alone. -/
theorem Bounded.congr (h : Bounded s) (hl : u.line.traffic = s.line.traffic) (hw : u.watch = s.watch)
    (hs : u.store.records = s.store.records) : Bounded u := by
  unfold Bounded
  rw [hl, hw, hs]
  exact h

namespace Bounded

/-- Records changed one by one, their bin lists still ascending. -/
theorem mapRecords {f : SectionRecord → SectionRecord} (h : Bounded s) (hf : ∀ r, r.Ascends → (f r).Ascends) :
    Bounded (s.onStore fun st => { st with records := st.records.map f }) :=
  { h with bins := List.forall_mem_map.2 fun r hr => hf r (h.bins r hr) }

theorem modify {n : Nat} {f : SectionRecord → SectionRecord} (h : Bounded s) (hf : ∀ r, r.Ascends → (f r).Ascends) :
    Bounded (s.onStore fun st => st.modify n f) :=
  h.mapRecords (f := fun r => if r.number = n then f r else r) fun r hr => by split <;> [exact hf r hr; exact hr]

theorem onSweeping {f : SectionRecord → SectionRecord} (h : Bounded s) (hf : ∀ r, r.Ascends → (f r).Ascends) :
    Bounded (s.onSweeping f) :=
  h.mapRecords (f := fun r => if r.state = .sweeping then f r else r) fun r hr => by split <;> [exact hf r hr; exact hr]

/-- Records left out. -/
theorem subset {f : Store → Store} (h : Bounded s) (hf : ∀ r ∈ (f s.store).records, r ∈ s.store.records) : Bounded (s.onStore f) :=
  { h with bins := fun r hr => h.bins r (hf r hr) }

end Bounded

/-! ### Entry to FAULT, and recording an error kind -/

theorem ledger_nil : Ledger 0 [] [] := Ledger.nil_iff.2 ⟨Nat.zero_le _, .nil, rfl⟩

/-- A station with its watch unit cleared keeps the invariant as far as the line does. -/
theorem bounded_of_cleared (ht : s.line.traffic.Within) (hw : s.watch = Watch.cleared) (hb : ∀ r ∈ s.store.records, r.Ascends) :
    Bounded s := by
  unfold Bounded
  rw [hw]
  exact ⟨ht, fun h => absurd rfl h, ledger_nil, ⟨nofun, .nil, nofun, nofun⟩, hb⟩

theorem Line.enterFault_traffic (l : Line) : l.enterFault.traffic = { l.traffic with b := [], c := [] } := by
  unfold Line.enterFault
  dsimp only
  split
  · split <;> rfl
  · rfl

theorem bounded_enterFault (h : s.line.traffic.Within) : Bounded (enterFault s) := by
  refine bounded_of_cleared ?_ (enterFault_watch s) fun r hr => ?_
  · rw [enterFault_line, Line.enterFault_traffic]
    exact ⟨h.queue, h.a, Nat.zero_le _, Nat.zero_le _⟩
  · rw [enterFault_records] at hr
    exact absurd hr List.not_mem_nil

/-- A kind recorded changes the recorder alone, or the station enters FAULT. -/
theorem record_bounded_cases (k : ErrKind) (h : s.line.traffic.Within) : (∃ f, record k s = s.onRecorder f) ∨
    ((record k s).ctrl.station = .fault ∧ Bounded (record k s)) := by
  obtain ⟨-, e⟩ | ⟨-, e⟩ | ⟨-, e⟩ := record_cases s k
  · exact .inl ⟨_, e⟩
  · exact .inl ⟨fun r => { (r.count k).fill k with attention := (record k s).recorder.attention }, by rw [e]; rfl⟩
  · rw [e]
    exact .inr ⟨by rw [enterFault_ctrl], bounded_enterFault h⟩

theorem Bounded.record (k : ErrKind) (h : Bounded s) : Bounded (record k s) := by
  obtain ⟨f, e⟩ | ⟨-, e⟩ := record_bounded_cases k h.within
  · rw [e]
    exact h
  · exact e

/-! ### The transmit groups -/

namespace Bounded

theorem offer (h : Bounded s) : Bounded (offer s) := by
  obtain ⟨x, e⟩ := offer_eq s
  rw [e]
  exact h

/-- An EDGE enters group B. -/
theorem enqueueB {t : Telegram} (h : Bounded s) (hroom : s.hasRoom .b = true) : Bounded (enqueue .b t s) := by
  have hlen : s.line.groupB.length < 8 := (s.hasRoom_iff .b).1 hroom
  obtain ⟨x, e⟩ := enqueue_eq s .b t
  rw [e]
  refine { h with within := ⟨h.within.queue, h.within.a, ?_, h.within.c⟩ }
  change (s.line.groupB ++ [t]).length ≤ 8
  rw [List.length_append, List.length_singleton]
  exact hlen

theorem edgeToSide {sd : Side} {e : EdgeBody} (h : Bounded s) : Bounded (edgeToSide sd e s) := by
  unfold Machine.edgeToSide sendEdge
  split
  · split
    next hroom => exact h.enqueueB hroom
    next => exact h.record _
  · exact h

theorem sendGapEdges {n : Nat} (h : Bounded s) : Bounded (sendGapEdges n s) := by
  unfold Machine.sendGapEdges
  have hleft := kept_whileRun h (h.edgeToSide (sd := .left) (e := ⟨n, .both, true, []⟩))
  exact kept_whileRun hleft hleft.edgeToSide

theorem sendEdges {r : SectionRecord} (h : Bounded s) : Bounded (sendEdges r s) := by
  unfold Machine.sendEdges
  have hleft := kept_whileRun h (h.edgeToSide (sd := .left) (e := r.edgeBody s.ctrl.setup .left))
  exact kept_whileRun hleft hleft.edgeToSide

end Bounded

/-- A telegram that enters group A while it has room, when nothing is owed. -/
theorem Keeping.enqueueA {t : Telegram} (h : Keeping live s.line.traffic s.watch s.store.records) (hroom : s.hasRoom .a = true) :
    s.watch.owed = [] ∧ ∃ x, enqueue .a t s = (s.onLine fun l => { l with groupA := l.groupA ++ [t], tx := x })
      ∧ Traffic.Within { s.line.traffic with a := s.line.groupA ++ [t] } := by
  have hlen : s.line.groupA.length < 4 := (s.hasRoom_iff .a).1 hroom
  refine ⟨by_contra fun ho => absurd (h.full ho) (Nat.not_le.2 hlen), ?_⟩
  obtain ⟨x, e⟩ := enqueue_eq s .a t
  refine ⟨x, e, h.within.queue, ?_, h.within.b, h.within.c⟩
  rw [List.length_append, List.length_singleton]
  exact hlen

theorem Bounded.enqueueA {t : Telegram} (h : Bounded s) (hroom : s.hasRoom .a = true) : Bounded (enqueue .a t s) := by
  obtain ⟨ho, x, e, hwithin⟩ := Keeping.enqueueA (t := t) h hroom
  rw [e]
  exact { h with within := hwithin, full := fun h => absurd ho h }

/-! ### The owed telegrams -/

/-- A record whose RAISE the owed-telegram list takes or gives up. -/
def LocalRecord.owes (raised : Option Nat) (owed : Bool) (r : LocalRecord) : LocalRecord :=
  if r.id.isSome && decide (r.id = raised) then { r with owed := owed } else r

theorem setOwed_eq (w : Watch) (t : Telegram) (owed : Bool) :
    w.setOwed t owed = { w with locals := w.locals.map (LocalRecord.owes t.raises owed) } := by
  unfold Watch.setOwed
  congr 1
  refine List.map_congr_left fun r _ => ?_
  unfold LocalRecord.owes
  cases hid : r.id with
  | none => rfl
  | some i =>
    have hiff : (t.isRaiseOf i = true) = (some i = t.raises) := propext (Telegram.isRaiseOf_iff.trans eq_comm)
    simp only [hiff, Option.isSome_some, Bool.true_and, decide_eq_true_eq]

theorem map_owes_eq_self {rs : List LocalRecord} {raised : Option Nat} {owed : Bool} (h : ∀ r ∈ rs, ∀ i, raised = some i → r.id ≠ some i) :
    rs.map (LocalRecord.owes raised owed) = rs := by
  refine (List.map_congr_left fun r hr => ?_).trans (List.map_id rs)
  unfold LocalRecord.owes
  cases hraised : raised with
  | none => cases r.id <;> rfl
  | some i => simp [h r hr i hraised]

/-- A telegram that raises nothing marks no record. -/
theorem setOwed_of_none {t : Telegram} (w : Watch) (owed : Bool) (h : t.raises = none) : w.setOwed t owed = w := by
  rw [setOwed_eq, map_owes_eq_self fun _ _ i hi => absurd (h.symm.trans hi) (by simp)]

/-- A telegram that raises nothing only joins the list. -/
theorem owe_of_none {t : Telegram} (h : t.raises = none) : owe t s = s.onWatch fun w => { w with owed := w.owed ++ [t] } := by
  simp only [owe, setOwed_of_none _ _ h]

theorem LocalRecord.owes_frame (raised : Option Nat) (owed : Bool) (r : LocalRecord) :
    (r.owes raised owed).first = r.first ∧ (r.owes raised owed).last = r.last ∧ (r.owes raised owed).state = r.state
      ∧ (r.owes raised owed).id = r.id := by
  unfold owes
  split <;> exact ⟨rfl, rfl, rfl, rfl⟩

theorem LocalRecord.owes_silent (raised : Option Nat) (owed : Bool) {r : LocalRecord} (h : r.id = none) : r.owes raised owed = r := by
  unfold owes
  rw [h]
  rfl

theorem LocalRecord.ticket_owes_false (raised : Option Nat) (r : LocalRecord) : (r.owes raised false).ticket = r.ticket.paid raised := by
  unfold owes Ticket.paid ticket
  split <;> rfl

namespace TableSound
variable {rs : List LocalRecord}

/-- Records changed one by one, their spans, ids and being PENDING as before. -/
theorem map {f : LocalRecord → LocalRecord} (h : TableSound rs) (hspan : ∀ r ∈ rs, (f r).first = r.first ∧ (f r).last = r.last)
    (hid : ∀ r ∈ rs, (f r).id = r.id ∧ ((f r).state = .pending ↔ r.state = .pending)) (hsilent : ∀ r ∈ rs, r.id = none → (f r).owed = r.owed) :
    TableSound (rs.map f) where
  spans := List.forall_mem_map.2 fun r hr => by
    rw [(hspan r hr).1, (hspan r hr).2]
    exact h.spans r hr
  apart := List.pairwise_map.2 <| h.apart.imp_of_mem fun {r q} hr hq hrq => by
    rw [(hspan r hr).2, (hspan q hq).1]
    exact hrq
  pending := List.forall_mem_map.2 fun r hr => by
    rw [(hid r hr).1, (hid r hr).2]
    exact h.pending r hr
  silent := List.forall_mem_map.2 fun r hr he => by
    rw [(hid r hr).1] at he
    exact (hsilent r hr he).trans (h.silent r hr he)

theorem owes (h : TableSound rs) (raised : Option Nat) (owed : Bool) : TableSound (rs.map (LocalRecord.owes raised owed)) := by
  refine TableSound.map h (fun r _ => ?_) (fun r _ => ?_) fun r _ hr => by rw [r.owes_silent _ _ hr]
  all_goals obtain ⟨hfirst, hlast, hstate, hid⟩ := r.owes_frame raised owed
  · exact ⟨hfirst, hlast⟩
  · exact ⟨hid, by rw [hstate]⟩

theorem sublist {rs' : List LocalRecord} (h : TableSound rs) (hs : rs'.Sublist rs) : TableSound rs' :=
  ⟨fun r hr => h.spans r (hs.subset hr), h.apart.sublist hs, fun r hr => h.pending r (hs.subset hr),
    fun r hr => h.silent r (hs.subset hr)⟩

end TableSound

namespace Bounded

/-- A DRAINED is queued, owed, or dropped as the ninth. -/
theorem produceDrained {t : Telegram} (h : Bounded s) (ht : t.isDrained = true) : Bounded (produceA t s) := by
  unfold Machine.produceA
  split
  next hroom => exact h.enqueueA hroom
  next hroom =>
    split
    · exact h.record _
    next hnine =>
      have hfull : 4 ≤ s.line.groupA.length := Nat.le_of_not_lt fun hl => hroom ((s.hasRoom_iff .a).2 hl)
      have height : s.watch.owed.countP Telegram.isDrained < 8 := by
        rw [ht, Bool.true_and, decide_eq_true_eq, ← List.countP_eq_length_filter] at hnine
        exact Nat.lt_of_not_le hnine
      rw [owe_of_none (Telegram.of_isDrained ht).1]
      exact { h with full := fun _ => hfull, ledger := h.ledger.owe_drained ht height }

theorem completeDrain (h : Bounded s) : Bounded (completeDrain s) := by
  unfold Machine.completeDrain
  dsimp only
  split
  next q _ => exact h.produceDrained (t := ⟨q, .drained s.store.drainTarget⟩) rfl
  next => exact h

/-- The slot of group A that came free takes the oldest owed telegram. -/
theorem refillA (h : Bounded s) (hl : u.line.traffic = { s.line.traffic with a := s.line.groupA.tail }) (hw : u.watch = s.watch)
    (hs : u.store.records = s.store.records) : Bounded (refillA u) := by
  obtain ⟨hwithin, hfull, hledger, htable, hbins⟩ := h
  have htail : s.line.groupA.tail.length ≤ 3 := by
    have := hwithin.a
    rw [List.length_tail]
    exact Nat.sub_le_of_le_add this
  obtain ⟨ho, e⟩ | ⟨t, rest, ho, e⟩ := refillA_cases u <;> rw [e]
  · unfold Bounded
    rw [hl, hw, hs]
    rw [hw] at ho
    exact ⟨⟨hwithin.queue, htail.trans (by decide), hwithin.b, hwithin.c⟩, fun h => absurd ho h, hledger, htable, hbins⟩
  · obtain ⟨x, e⟩ := enqueue_eq (u.onWatch fun w => { (w.setOwed t false) with owed := rest }) .a t
    rw [e]
    rw [hw] at ho
    have ha : u.line.groupA = s.line.groupA.tail := congrArg Traffic.a hl
    have hthree : s.line.groupA.tail.length = 3 := by
      have := hfull (by rw [ho]; exact List.cons_ne_nil _ _)
      rw [List.length_tail] at htail ⊢
      change 4 ≤ s.line.groupA.length at this
      omega
    have hfour : (u.line.groupA ++ [t]).length = 4 := by rw [List.length_append, ha, hthree]; rfl
    have hsame : ({ u.line.traffic with a := u.line.groupA ++ [t] } : Traffic) = { s.line.traffic with a := u.line.groupA ++ [t] } := by
      rw [hl]
    have hpaid : (s.watch.locals.map (LocalRecord.owes t.raises false)).map LocalRecord.ticket
        = (s.watch.locals.map LocalRecord.ticket).map (Ticket.paid t.raises) := by
      rw [List.map_map, List.map_map]
      exact List.map_congr_left fun r _ => r.ticket_owes_false t.raises
    have hpay := Ledger.pay (ho ▸ hledger)
    rw [← hpaid] at hpay
    change Keeping ((u.watch.setOwed t false).locals.map LocalRecord.ticket) { u.line.traffic with a := u.line.groupA ++ [t] } 
      { u.watch.setOwed t false with owed := rest } u.store.records
    rw [setOwed_eq, hsame, hw, hs]
    exact ⟨⟨hwithin.queue, hfour.le, hwithin.b, hwithin.c⟩, fun _ => hfour.ge, hpay, htable.owes _ _, hbins⟩

end Bounded
end Sys2Proof.Machine

/-! The spans of a section and its groups: no two of them are near. -/

namespace Sys2Proof.Machine

/-! ### Spans (R136) -/

/-- The spans joined from ascending bins begin no lower than the open one, and leave more than 2 bins between them. -/
theorem joinSpans_apart (cur : Span) (bins : List (Nat × Int)) (hcur : cur.first ≤ cur.last) (hbins : ∀ b ∈ bins, cur.last < b.1)
    (hascend : bins.Pairwise fun b c => b.1 < c.1) : (∀ sp ∈ joinSpans cur bins, cur.first ≤ sp.first ∧ sp.first ≤ sp.last)
      ∧ (joinSpans cur bins).Pairwise fun x y => x.last + 2 < y.first := by
  induction bins generalizing cur with
  | nil => exact ⟨by simpa [joinSpans] using hcur, List.pairwise_singleton _ _⟩
  | cons b rest ih =>
    obtain ⟨hb, hrest⟩ := List.pairwise_cons.1 hascend
    have hlast : cur.last < b.1 := hbins b List.mem_cons_self
    unfold joinSpans
    split
    · exact ih ⟨cur.first, b.1, min cur.clearance b.2⟩ (hcur.trans hlast.le) hb hrest
    next hgap =>
      obtain ⟨hspans, hpair⟩ := ih ⟨b.1, b.1, b.2⟩ (Nat.le_refl _) hb hrest
      refine ⟨List.forall_mem_cons.2 ⟨⟨Nat.le_refl _, hcur⟩, fun sp hsp => ?_⟩, List.pairwise_cons.2 ⟨fun sp hsp => ?_, hpair⟩⟩ <;>
        have := hspans sp hsp
      · exact ⟨(hcur.trans hlast.le).trans this.1, this.2⟩
      · exact (Nat.lt_of_not_le hgap).trans_le this.1

/-- The spans of an ascending bin list are ranges, no two of them near. -/
theorem spansOf_apart {bins : List BinRecord} (h : bins.Pairwise fun b c => b.bin < c.bin) : (∀ sp ∈ spansOf bins, sp.first ≤ sp.last)
    ∧ (spansOf bins).Pairwise fun x y => near x.first x.last y.first y.last = false := by
  have hascend : (intrusionBins bins).Pairwise fun b c => b.1 < c.1 := by
    refine List.Pairwise.filterMap _ (fun b c hbc x hx y hy => ?_) h
    have hbin : ∀ (r : BinRecord) (z : Nat × Int), (match r.intrusion, r.cMin with
        | true, some c => some (r.bin, c)
        | _, _ => none) = some z → z.1 = r.bin := by
      intro r z hz
      split at hz
      · obtain rfl := Option.some.inj hz
        rfl
      · exact absurd hz (by simp)
    rw [hbin b x hx, hbin c y hy]
    exact hbc
  unfold spansOf
  split
  · exact ⟨nofun, .nil⟩
  next b c rest he =>
    rw [he] at hascend
    obtain ⟨hb, hrest⟩ := List.pairwise_cons.1 hascend
    obtain ⟨hspans, hpair⟩ := joinSpans_apart ⟨b, b, c⟩ rest (Nat.le_refl _) hb hrest
    exact ⟨fun sp hsp => (hspans sp hsp).2, hpair.imp fun hxy => near_eq_false.2 (.inl hxy)⟩

/-! ### The ranges of groups (R137) -/

theorem near_iff {a b c d : Nat} : near a b c d = true ↔ c ≤ b + 2 ∧ a ≤ d + 2 := by
  rw [near, Bool.and_eq_true, decide_eq_true_eq, decide_eq_true_eq]

theorem near_comm (a b c d : Nat) : near a b c d = near c d a b := Bool.and_comm _ _

theorem foldl_max_le_iff (l : List Nat) (a b : Nat) : l.foldl max a ≤ b ↔ a ≤ b ∧ ∀ x ∈ l, x ≤ b := by
  induction l generalizing a with
  | nil => simp
  | cons x l ih => simp [ih, and_assoc]

theorem le_foldl_min_iff (l : List Nat) (a b : Nat) : b ≤ l.foldl min a ↔ b ≤ a ∧ ∀ x ∈ l, b ≤ x := by
  induction l generalizing a with
  | nil => simp
  | cons x l ih => simp [ih, and_assoc]

namespace SpanGroup

/-- The range of a group is a range and holds its members. -/
structure Hull (g : SpanGroup) : Prop where
  range  : g.first ≤ g.last
  locals : ∀ x ∈ g.locals, g.first ≤ x.first ∧ x.last ≤ g.last
  spans  : ∀ x ∈ g.spans, g.first ≤ x.first ∧ x.last ≤ g.last

variable {g : SpanGroup} {ls : List LocalRecord} {sps : List Span}

theorem le_join_first_iff {a : Nat} : a ≤ (g.join ls sps).first ↔ a ≤ g.first ∧ (∀ x ∈ ls, a ≤ x.first) ∧ ∀ x ∈ sps, a ≤ x.first := by
  rw [join, le_foldl_min_iff]
  simp [or_imp, forall_and]

theorem join_last_le_iff {b : Nat} : (g.join ls sps).last ≤ b ↔ g.last ≤ b ∧ (∀ x ∈ ls, x.last ≤ b) ∧ ∀ x ∈ sps, x.last ≤ b := by
  rw [join, foldl_max_le_iff]
  simp [or_imp, forall_and]

theorem Hull.join (h : g.Hull) (ls : List LocalRecord) (sps : List Span) : (g.join ls sps).Hull := by
  obtain ⟨hfirst, hls, hsps⟩ := (le_join_first_iff (g := g) (ls := ls) (sps := sps)).1 (Nat.le_refl _)
  obtain ⟨hlast, hls', hsps'⟩ := (join_last_le_iff (g := g) (ls := ls) (sps := sps)).1 (Nat.le_refl _)
  refine ⟨(hfirst.trans h.range).trans hlast, fun x hx => ?_, fun x hx => ?_⟩
  · obtain hx | hx := List.mem_append.1 hx
    · exact ⟨hfirst.trans (h.locals x hx).1, (h.locals x hx).2.trans hlast⟩
    · exact ⟨hls x hx, hls' x hx⟩
  · obtain hx | hx := List.mem_append.1 hx
    · exact ⟨hfirst.trans (h.spans x hx).1, (h.spans x hx).2.trans hlast⟩
    · exact ⟨hsps x hx, hsps' x hx⟩

/-- What is near a group and not near a range lies on the group's side of the range, so that the group stays there as it grows. -/
theorem join_far {a b : Nat} (hab : a ≤ b) (hg : near a b g.first g.last = false)
    (hls : ∀ x ∈ ls, near g.first g.last x.first x.last = true ∧ near a b x.first x.last = false)
    (hsps : ∀ x ∈ sps, near g.first g.last x.first x.last = true ∧ near a b x.first x.last = false) :
    near a b (g.join ls sps).first (g.join ls sps).last = false := by
  simp only [near_eq_false, near_iff] at *
  obtain hg | hg := hg
  · refine .inl (Nat.lt_of_succ_le (le_join_first_iff.2 ⟨hg, fun x hx => ?_, fun x hx => ?_⟩))
    · have := hls x hx; omega
    · have := hsps x hx; omega
  · refine .inr ?_
    have hlast : (g.join ls sps).last ≤ a - 3 := join_last_le_iff.2 ⟨by omega, fun x hx => ?_, fun x hx => ?_⟩
    · omega
    · have := hls x hx; omega
    · have := hsps x hx; omega

end SpanGroup

/-- A group that grows keeps its members in its range, and stays far from whatever it and all that it can take in are far from. -/
theorem growGroup_hull (n : Nat) {g : SpanGroup} (hg : g.Hull) (ls : List LocalRecord) (sps : List Span) :
    (growGroup n g ls sps).1.Hull ∧ ∀ a b : Nat, a ≤ b → near a b g.first g.last = false →
      (∀ x ∈ ls, near a b x.first x.last = false) → (∀ x ∈ sps, near a b x.first x.last = false) →
      near a b (growGroup n g ls sps).1.first (growGroup n g ls sps).1.last = false := by
  induction n generalizing g ls sps with
  | zero => exact ⟨hg, fun _ _ _ h _ _ => h⟩
  | succ n ih =>
    unfold growGroup
    dsimp only
    simp only [List.partition_eq_filter_filter]
    split
    · exact ⟨hg, fun _ _ _ h _ _ => h⟩
    · obtain ⟨hhull, hfar⟩ := ih (hg.join (ls.filter fun r => near g.first g.last r.first r.last)
        (sps.filter fun sp => near g.first g.last sp.first sp.last))
        (ls.filter (not ∘ fun r => near g.first g.last r.first r.last))
        (sps.filter (not ∘ fun sp => near g.first g.last sp.first sp.last))
      refine ⟨hhull, fun a b hab h hls hsps => hfar a b hab ?_ (fun x hx => hls x (List.mem_of_mem_filter hx))
        fun x hx => hsps x (List.mem_of_mem_filter hx)⟩
      exact SpanGroup.join_far hab h (fun x hx => ⟨(List.mem_filter.1 hx).2, hls x (List.mem_of_mem_filter hx)⟩)
        fun x hx => ⟨(List.mem_filter.1 hx).2, hsps x (List.mem_of_mem_filter hx)⟩

/-- A group that grows keeps the spans it has. -/
theorem growGroup_spans_prefix (n : Nat) (g : SpanGroup) (ls : List LocalRecord) (sps : List Span) :
    g.spans <+: (growGroup n g ls sps).1.spans := by
  induction n generalizing g ls sps with
  | zero => exact List.prefix_rfl
  | succ n ih =>
    unfold growGroup
    dsimp only
    split
    · exact List.prefix_rfl
    · exact .trans (show g.spans <+: (g.join _ _).spans from List.prefix_append _ _) (ih _ _ _)

/-- The groups of a section with what is left over (R137): every span and every record in one place, and no two places near. -/
structure Gathered (gs : List SpanGroup) (left : List LocalRecord) (sps : List Span) (ls : List LocalRecord) : Prop where
  locals : (gs.flatMap (·.locals) ++ left).Perm ls
  spans  : (gs.flatMap (·.spans)).Perm sps
  hulls  : ∀ g ∈ gs, g.Hull
  apart  : gs.Pairwise fun g g' => near g.first g.last g'.first g'.last = false
  left   : ∀ g ∈ gs, ∀ x ∈ left, near g.first g.last x.first x.last = false

theorem gatherGroups_gathered (n : Nat) (sps : List Span) (ls : List LocalRecord) (hn : sps.length ≤ n)
    (hsps : ∀ sp ∈ sps, sp.first ≤ sp.last) :
    Gathered (gatherGroups n sps ls).1 (gatherGroups n sps ls).2 sps ls
      ∧ ∀ a b : Nat, a ≤ b → (∀ x ∈ ls, near a b x.first x.last = false) → (∀ x ∈ sps, near a b x.first x.last = false) →
        ∀ g ∈ (gatherGroups n sps ls).1, near a b g.first g.last = false := by
  induction n generalizing sps ls with
  | zero =>
    obtain rfl := List.length_eq_zero_iff.1 (Nat.le_zero.1 hn)
    exact ⟨⟨.refl _, .nil, nofun, .nil, nofun⟩, fun _ _ _ _ _ => nofun⟩
  | succ n ih =>
    cases sps with
    | nil => exact ⟨⟨.refl _, .nil, nofun, .nil, nofun⟩, fun _ _ _ _ _ => nofun⟩
    | cons sp sps =>
      have hopen : (SpanGroup.ofSpan sp).Hull := ⟨hsps sp List.mem_cons_self, nofun, by simp [SpanGroup.ofSpan]⟩
      have hperm := growGroup_perm (ls.length + sps.length) (.ofSpan sp) ls sps
      have hclosed := growGroup_closed (ls.length + sps.length) (.ofSpan sp) ls sps (Nat.le_refl _)
      have hgrown := growGroup_hull (ls.length + sps.length) hopen ls sps
      have hprefix := (growGroup_spans_prefix (ls.length + sps.length) (.ofSpan sp) ls sps).length_le
      unfold gatherGroups
      dsimp only
      generalize growGroup (ls.length + sps.length) (.ofSpan sp) ls sps = r at *
      obtain ⟨g, ls', sps'⟩ := r
      obtain ⟨hlocals, hspans⟩ : (g.locals ++ ls').Perm ls ∧ (g.spans ++ sps').Perm (sp :: sps) := hperm
      obtain ⟨hfarLocals, hfarSpans⟩ := hclosed
      obtain ⟨hhull, hfar⟩ := hgrown
      have hlen : sps'.length ≤ n := by
        have := hspans.length_eq
        rw [List.length_append, List.length_cons] at this
        change 1 ≤ g.spans.length at hprefix
        rw [List.length_cons] at hn
        omega
      obtain ⟨hrest, hfarRest⟩ := ih sps' ls' hlen fun x hx => hsps x (hspans.subset (List.mem_append_right _ hx))
      refine ⟨⟨?_, ?_, List.forall_mem_cons.2 ⟨hhull, hrest.hulls⟩, List.pairwise_cons.2 ⟨?_, hrest.apart⟩,
        List.forall_mem_cons.2 ⟨fun x hx => ?_, hrest.left⟩⟩, fun a b hab hls hspans' => List.forall_mem_cons.2 ⟨?_, ?_⟩⟩
      · rw [List.flatMap_cons, List.append_assoc]
        exact (hrest.locals.append_left _).trans hlocals
      · rw [List.flatMap_cons]
        exact (hrest.spans.append_left _).trans hspans
      · exact hfarRest _ _ hhull.range hfarLocals hfarSpans
      · exact hfarLocals x (hrest.locals.subset (List.mem_append_right _ hx))
      · exact hfar a b hab (hspans' sp List.mem_cons_self) hls fun x hx => hspans' x (List.mem_cons_of_mem _ hx)
      · exact hfarRest a b hab (fun x hx => hls x (hlocals.subset (List.mem_append_right _ hx)))
          fun x hx => hspans' x (hspans.subset (List.mem_append_right _ hx))

end Sys2Proof.Machine

/-! The evaluation of a section in a station that a FATAL kind may move to FAULT: the end of a record and the joining of one. -/

namespace Sys2Proof.Machine

variable {s t : State} {live : List Ticket} {P Q : State → Prop}

/-! ### Events that a FATAL kind ends (log 7) -/

/-- The invariant for the tickets of the live local records, those taken out of the table among them. -/
def Tracked (live : List Ticket) (s : State) : Prop := Keeping live s.line.traffic s.watch s.store.records

/-- In the course of an event of RUN: a property still holds, or a FATAL kind has ended the event. -/
def InRun (P : State → Prop) (s : State) : Prop := (s.ctrl.station = .run ∧ P s) ∨ (s.ctrl.station ≠ .run ∧ Bounded s)

namespace InRun

theorem imp (h : InRun P s) (hpq : ∀ t, P t → Q t) : InRun Q s := h.imp_left fun ⟨hr, hp⟩ => ⟨hr, hpq s hp⟩

theorem bounded (h : InRun P s) (hp : P s → Bounded s) : Bounded s := h.elim (fun h => hp h.2) And.right

/-- A later step of the event. -/
theorem whileRun {f : State → State} (h : InRun P s) (hf : s.ctrl.station = .run → P s → InRun Q (f s)) :
    InRun Q (whileRun f s) := by
  obtain ⟨hr, hp⟩ | ⟨hr, hb⟩ := h
  · rw [whileRun_run s f hr]
    exact hf hr hp
  · rw [whileRun_other s f hr]
    exact .inr ⟨hr, hb⟩

/-- Later steps one after another; the property may speak of those still to come. -/
theorem foldl {α : Type} {R : List α → State → Prop} {f : α → State → State} (l : List α) (h : InRun (R l) s)
    (hf : ∀ a rest t, t.ctrl.station = .run → R (a :: rest) t → InRun (R rest) (f a t)) :
    InRun (R []) (l.foldl (fun s a => Machine.whileRun (f a) s) s) := by
  induction l generalizing s with
  | nil => exact h
  | cons a l ih => exact ih (h.whileRun fun hr hp => hf a l s hr hp)

/-- A kind recorded in the event. -/
theorem record {k : ErrKind} (hr : s.ctrl.station = .run) (hw : s.line.traffic.Within) (hp : ∀ f, P (s.onRecorder f)) :
    InRun P (record k s) := by
  obtain ⟨f, e⟩ | ⟨hf, hb⟩ := record_bounded_cases k hw
  · rw [e]
    exact .inl ⟨hr, hp f⟩
  · exact .inr ⟨by rw [hf]; decide, hb⟩

end InRun

/-! ### Alerts produced -/

/-- An ALERT is queued in group A, where nothing is owed then, or is owed. -/
theorem produceA_alert_cases {t : Telegram} (h : Tracked live s) (ht : t.isDrained = false) :
    (s.watch.owed = [] ∧ ∃ x, produceA t s = (s.onLine fun l => { l with groupA := l.groupA ++ [t], tx := x })
        ∧ Traffic.Within { s.line.traffic with a := s.line.groupA ++ [t] })
      ∨ (4 ≤ s.line.groupA.length ∧ produceA t s = s.onWatch fun w =>
        { w with locals := w.locals.map (LocalRecord.owes t.raises true), owed := w.owed ++ [t] }) := by
  by_cases hroom : s.hasRoom .a = true
  · obtain ⟨ho, x, e, hw⟩ := Keeping.enqueueA (t := t) h hroom
    exact .inl ⟨ho, x, by rw [produceA, if_pos hroom, e], hw⟩
  · refine .inr ⟨Nat.le_of_not_lt fun hl => hroom ((s.hasRoom_iff .a).2 hl), ?_⟩
    rw [produceA, if_neg hroom, ht, Bool.false_and, if_neg Bool.false_ne_true, owe]
    simp only [setOwed_eq]

/-- A record that is out of the table ends: its RAISE is withdrawn, or its END produced. -/
theorem Tracked.endRecord {r : LocalRecord} {n i : Nat} (h : Tracked (r.ticket :: live) s) (hr : s.ctrl.station = .run)
    (hi : r.id = some i) : InRun (fun t => Tracked live t ∧ t.watch.locals = s.watch.locals) (endRecord n r s) := by
  obtain ⟨hnone, -⟩ | ⟨j, hj, ho, e⟩ | ⟨j, hj, ho, e⟩ := endRecord_cases s n r
  · exact absurd (hnone.symm.trans hi) (by simp)
  · obtain rfl : i = j := Option.some.inj (hi.symm.trans hj)
    have hticket : r.ticket = ⟨some i, true⟩ := by rw [LocalRecord.ticket, hi, ho]
    rw [hticket] at h
    have hkept : Tracked live (s.onWatch fun w => { w with owed := w.owed.filter fun t => !t.isRaiseOf i }) :=
      ⟨h.within, fun hne => h.full fun hnil => hne (by change s.watch.owed.filter _ = []; rw [hnil]; rfl),
        h.ledger.withdraw, h.table, h.bins⟩
    rw [e]
    exact .record hr hkept.within fun f => ⟨hkept, rfl⟩
  · obtain rfl : i = j := Option.some.inj (hi.symm.trans hj)
    have hticket : r.ticket = ⟨some i, false⟩ := by rw [LocalRecord.ticket, hi, ho]
    have hend : (r.alert i true n).isEnd = true := rfl
    obtain ⟨hraises, hdrained⟩ := Telegram.of_isEnd hend
    rw [e]
    obtain ⟨ho, x, e, hw⟩ | ⟨hfull, e⟩ := produceA_alert_cases h hdrained <;> rw [e]
    · refine .inl ⟨hr, ⟨hw, fun hne => absurd ho hne, ?_, h.table, h.bins⟩, rfl⟩
      have hledger := h.ledger
      change Ledger s.watch.peers.length s.watch.owed live
      rw [ho] at hledger ⊢
      exact hledger.leave
    · rw [hraises]
      have hsame : s.watch.locals.map (LocalRecord.owes none true) = s.watch.locals := map_owes_eq_self fun _ _ i hi => nomatch hi
      simp only [State.onWatch, hsame]
      exact .inl ⟨hr, ⟨h.within, fun _ => hfull, (hticket ▸ h.ledger).owe_end hend, h.table, h.bins⟩, rfl⟩

/-! ### A record joins the table -/

/-- A range joins those of a table whose other records stay as they are. -/
structure Joins (first last : Nat) (rs rs' : List LocalRecord) : Prop where
  kept   : ∀ x ∈ rs, x ∈ rs'
  joined : ∀ x ∈ rs', x ∈ rs ∨ (x.first = first ∧ x.last = last)

/-- The table with a record put into it. -/
theorem TableSound.insert {rs : List LocalRecord} {r : LocalRecord} (h : TableSound rs) (hr : r.first ≤ r.last)
    (hx : ∀ x ∈ rs, near r.first r.last x.first x.last = false) (hp : r.id = none ↔ r.state = .pending)
    (ho : r.id = none → r.owed = false) : TableSound (insertLocal r rs) ∧ Joins r.first r.last rs (insertLocal r rs) := by
  have hmem : ∀ x, x ∈ insertLocal r rs ↔ x = r ∨ x ∈ rs := fun x => (insertLocal_perm r rs).mem_iff.trans List.mem_cons
  refine ⟨⟨fun x h' => ?_, insertLocal_apart r rs hr h.spans h.apart fun x h' => ?_, fun x h' => ?_, fun x h' => ?_⟩,
    fun x h' => (hmem x).2 (.inr h'), fun x h' => ?_⟩
  · obtain rfl | h' := (hmem x).1 h'
    · exact hr
    · exact h.spans x h'
  · have := near_eq_false.1 (hx x h')
    omega
  · obtain rfl | h' := (hmem x).1 h'
    · exact hp
    · exact h.pending x h'
  · obtain rfl | h' := (hmem x).1 h'
    · exact ho
    · exact h.silent x h'
  · obtain rfl | h' := (hmem x).1 h'
    · exact .inr ⟨rfl, rfl⟩
    · exact .inl h'

/-- A record apart from those of the table is put into it. -/
theorem Tracked.putLocal {r : LocalRecord} (h : Tracked live s) (hr : r.first ≤ r.last)
    (hx : ∀ x ∈ s.watch.locals, near r.first r.last x.first x.last = false) (hp : r.id = none ↔ r.state = .pending)
    (ho : r.id = none → r.owed = false) :
    Tracked live (putLocal r s) ∧ Joins r.first r.last s.watch.locals (putLocal r s).watch.locals := by
  obtain ⟨htable, hjoins⟩ := h.table.insert hr hx hp ho
  exact ⟨{ h with table := htable }, hjoins⟩

/-- The tickets of a table that a record has joined. -/
theorem tickets_insertLocal (r : LocalRecord) (rs : List LocalRecord) :
    ((insertLocal r rs).map LocalRecord.ticket).Perm (r.ticket :: rs.map LocalRecord.ticket) := (insertLocal_perm r rs).map _

/-- A record that had an id before, or was out of the table, is back in it. -/
theorem Tracked.putBack {r : LocalRecord} (h : Tracked (r.ticket :: s.watch.locals.map LocalRecord.ticket) s) (hr : r.first ≤ r.last)
    (hx : ∀ x ∈ s.watch.locals, near r.first r.last x.first x.last = false) (hp : r.id = none ↔ r.state = .pending)
    (ho : r.id = none → r.owed = false) :
    Bounded (Machine.putLocal r s) ∧ Joins r.first r.last s.watch.locals (Machine.putLocal r s).watch.locals := by
  obtain ⟨hput, hjoins⟩ := h.putLocal hr hx hp ho
  exact ⟨{ hput with ledger := hput.ledger.perm (tickets_insertLocal r _).symm }, hjoins⟩

/-- A record newly RAISED joins, and its RAISE is queued or owed. -/
theorem Bounded.raise {r : LocalRecord} {n i c : Nat} (h : Bounded s) (hcap : s.watch.inUse < 16) (hr : r.first ≤ r.last)
    (hx : ∀ x ∈ s.watch.locals, near r.first r.last x.first x.last = false) (hi : r.id = some i) (hs : r.state ≠ .pending)
    (ho : r.owed = false) (hfree : ∀ x ∈ s.watch.locals, x.id ≠ some i) :
    Bounded (produceA (r.alert i false n) ((putLocal r s).onWatch fun w => { w with idCounter := c }))
      ∧ Joins r.first r.last s.watch.locals
        (produceA (r.alert i false n) ((putLocal r s).onWatch fun w => { w with idCounter := c })).watch.locals
      ∧ (produceA (r.alert i false n) ((putLocal r s).onWatch fun w => { w with idCounter := c })).ctrl = s.ctrl := by
  have hraises : (r.alert i false n).raises = some i := rfl
  have hids : i ∉ (s.watch.locals.map LocalRecord.ticket).filterMap Ticket.id := by
    rw [List.filterMap_map, List.mem_filterMap]
    rintro ⟨x, hmem, hid⟩
    exact hfree x hmem hid
  have hroom : (s.watch.locals.map LocalRecord.ticket).length + s.watch.peers.length < 16 := by
    rw [List.length_map]
    exact hcap
  obtain ⟨hput, hjoins⟩ := Tracked.putLocal h hr hx (by simp [hi, hs]) (by simp [hi])
  have hcounted : Tracked (s.watch.locals.map LocalRecord.ticket) ((putLocal r s).onWatch fun w => { w with idCounter := c }) :=
    ⟨hput.within, hput.full, hput.ledger, hput.table, hput.bins⟩
  obtain ⟨howed, x, e, hw⟩ | ⟨hfull, e⟩ := produceA_alert_cases hcounted (Telegram.of_raises hraises).2 <;> rw [e]
  · refine ⟨⟨hw, fun hne => absurd howed hne, ?_, hput.table, hput.bins⟩, hjoins, rfl⟩
    have howed : s.watch.owed = [] := howed
    have hledger := h.ledger
    rw [howed] at hledger
    refine Ledger.perm ?_ (tickets_insertLocal r _).symm
    rw [LocalRecord.ticket, hi, ho]
    exact (howed ▸ hledger.announce hroom hids : Ledger _ s.watch.owed _)
  · rw [hraises]
    have hothers : s.watch.locals.map (LocalRecord.owes (some i) true) = s.watch.locals :=
      map_owes_eq_self fun x hx j hj => by obtain rfl := Option.some.inj hj; exact hfree x hx
    have hown : r.owes (some i) true = { r with owed := true } := by simp [LocalRecord.owes, hi]
    have hlocals : ((insertLocal r s.watch.locals).map (LocalRecord.owes (some i) true)).Perm
        ({ r with owed := true } :: s.watch.locals) := by
      refine ((insertLocal_perm r _).map _).trans (.of_eq ?_)
      rw [List.map_cons, hothers, hown]
    refine ⟨⟨hput.within, fun _ => hfull, ?_, hput.table.owes _ _, hput.bins⟩, ⟨fun x hx => ?_, fun x hx => ?_⟩, rfl⟩
    · refine Ledger.perm ?_ (hlocals.map LocalRecord.ticket).symm
      rw [List.map_cons, LocalRecord.ticket, hi]
      exact h.ledger.owe_raise hroom hids hraises
    · exact hlocals.symm.subset (List.mem_cons_of_mem _ hx)
    · obtain rfl | hx := List.mem_cons.1 (hlocals.subset hx)
      · exact .inr ⟨rfl, rfl⟩
      · exact .inl hx

/-- A PENDING record apart from those of the table joins it, and may be confirmed (R140). -/
theorem Bounded.confirmOrWait {r : LocalRecord} {n : Nat} (h : Bounded s) (hrun : s.ctrl.station = .run) (hcap : s.watch.inUse < 16)
    (hr : r.first ≤ r.last) (hx : ∀ x ∈ s.watch.locals, near r.first r.last x.first x.last = false) (hi : r.id = none)
    (hs : r.state = .pending) (ho : r.owed = false) :
    InRun (fun t => Bounded t ∧ Joins r.first r.last s.watch.locals t.watch.locals) (confirmOrWait n r s) := by
  obtain e | ⟨i, c, hfree, e⟩ := confirmOrWait_cases s n r <;> rw [e]
  · refine .inl ⟨hrun, Tracked.putBack ?_ hr hx (by simp [hi, hs]) fun _ => ho⟩
    rw [LocalRecord.ticket, hi, ho]
    exact { h with ledger := h.ledger.open_pending (by rw [List.length_map]; exact hcap) }
  · obtain ⟨hb, hj, hc⟩ := h.raise (r := { r with state := .raised, id := some i, corroborated := c }) (n := n) (c := (i + 1) % 256)
      hcap hr hx rfl (by simp) ho (Watch.freeId_free hfree).2
    exact .inl ⟨(congrArg Control.station hc).trans hrun, hb, hj⟩

/-- A span that no record matched, apart from those of the table, makes a record of its own while the table has room (R142). -/
theorem Bounded.createLocal {sp : Span} {n : Nat} (h : Bounded s) (hrun : s.ctrl.station = .run) (hr : sp.first ≤ sp.last)
    (hx : ∀ x ∈ s.watch.locals, near sp.first sp.last x.first x.last = false) :
    InRun (fun t => Bounded t ∧ Joins sp.first sp.last s.watch.locals t.watch.locals) (createLocal n sp s) := by
  unfold Machine.createLocal
  split
  · exact .record hrun h.within fun _ => ⟨h, fun _ => id, fun _ => .inl⟩
  next hroom => exact h.confirmOrWait hrun (Nat.lt_of_not_le hroom) hr hx rfl rfl rfl

end Sys2Proof.Machine

/-! The merging of a group's records into one. -/

namespace Sys2Proof.Machine

variable {s t : State} {live : List Ticket}

/-! ### Merging (R138, R139) -/

theorem LocalRecord.keptBefore_total (x y : LocalRecord) : x.keptBefore y = true ∧ (x.id = none → y.id = none) ∨
    x.keptBefore y = false ∧ (y.id = none → x.id = none) := by
  unfold keptBefore
  cases x.id <;> cases y.id <;> simp <;> omega

/-- The record a merge keeps is one of them, and has an id if any of them has. -/
theorem pickKept_spec (r : LocalRecord) (rs : List LocalRecord) :
    pickKept r rs ∈ r :: rs ∧ ((pickKept r rs).id = none → ∀ x ∈ r :: rs, x.id = none) := by
  induction rs generalizing r with
  | nil => exact ⟨List.mem_cons_self, fun h => by simpa [pickKept] using h⟩
  | cons y rs ih =>
    rw [pickKept]
    obtain ⟨hb, hid⟩ | ⟨hb, hid⟩ := r.keptBefore_total y
    · rw [if_pos hb]
      obtain ⟨hmem, hnone⟩ := ih r
      refine ⟨?_, fun h => ?_⟩
      · obtain h | h := List.mem_cons.1 hmem
        · exact List.mem_cons.2 (.inl h)
        · exact List.mem_cons_of_mem _ (List.mem_cons_of_mem _ h)
      · obtain ⟨hr, hrs⟩ := List.forall_mem_cons.1 (hnone h)
        exact List.forall_mem_cons.2 ⟨hr, List.forall_mem_cons.2 ⟨hid hr, hrs⟩⟩
    · rw [if_neg (by rw [hb]; exact Bool.false_ne_true)]
      obtain ⟨hmem, hnone⟩ := ih y
      refine ⟨List.mem_cons_of_mem _ hmem, fun h => ?_⟩
      obtain ⟨hy, hrs⟩ := List.forall_mem_cons.1 (hnone h)
      exact List.forall_mem_cons.2 ⟨hid hy, List.forall_mem_cons.2 ⟨hy, hrs⟩⟩

/-- A merged record is PENDING exactly when all it is merged from are. -/
theorem mergedState_pending_iff (rs : List LocalRecord) : mergedState rs = .pending ↔ ∀ r ∈ rs, r.state = .pending := by
  have hstate : ∀ x : WatchState, x = .pending ↔ x ≠ .raised ∧ x ≠ .easing := fun x => by cases x <;> simp
  unfold mergedState
  split
  next h =>
    obtain ⟨r, hr, hs⟩ := List.any_eq_true.1 h
    simp only [reduceCtorEq, false_iff, not_forall]
    exact ⟨r, hr, by rw [of_decide_eq_true hs]; decide⟩
  next hraised =>
    split
    next h =>
      obtain ⟨r, hr, hs⟩ := List.any_eq_true.1 h
      simp only [reduceCtorEq, false_iff, not_forall]
      exact ⟨r, hr, by rw [of_decide_eq_true hs]; decide⟩
    next heasing =>
      simp only [List.any_eq_true, decide_eq_true_eq, not_exists, not_and] at hraised heasing
      exact ⟨fun _ r hr => (hstate _).2 ⟨hraised r hr, heasing r hr⟩, fun _ => rfl⟩

theorem foldr_insertById_perm (rs : List LocalRecord) : (rs.foldr insertById []).Perm rs := by
  induction rs with
  | nil => exact .nil
  | cons r rs ih => exact (insertById_perm r _).trans (ih.cons r)

theorem TableSound.nodup {rs : List LocalRecord} (h : TableSound rs) : rs.Nodup :=
  h.apart.imp_of_mem fun {x y} hx hy hxy he => by
    have := h.spans x hx
    subst he
    omega

/-- A merged record that is out of the table moves its state and is put back, as PENDING or RAISED (R139). -/
theorem Tracked.advanceMerged {r : LocalRecord} {n : Nat} (h : Tracked (r.ticket :: s.watch.locals.map LocalRecord.ticket) s)
    (hrun : s.ctrl.station = .run) (hr : r.first ≤ r.last)
    (hx : ∀ x ∈ s.watch.locals, near r.first r.last x.first x.last = false) (hp : r.id = none ↔ r.state = .pending)
    (ho : r.id = none → r.owed = false) :
    InRun (fun t => Bounded t ∧ Joins r.first r.last s.watch.locals t.watch.locals) (advanceMerged n r s) := by
  have back : ∀ corroborated, r.state ≠ .pending →
      InRun (fun t => Bounded t ∧ Joins r.first r.last s.watch.locals t.watch.locals)
        (Machine.putLocal { r with state := .raised, corroborated := corroborated } s) := fun c hs =>
    .inl ⟨hrun, Tracked.putBack (r := { r with state := .raised, corroborated := c }) h hr hx (by simp [hp, hs]) ho⟩
  unfold Machine.advanceMerged
  split
  next hs =>
    have hid : r.id = none := hp.2 hs
    have hcap := h.ledger.capacity
    rw [List.length_cons, List.length_map] at hcap
    have hb : Bounded s := { h with ledger := h.ledger.forget (List.sublist_cons_self _ _) (by
      rw [LocalRecord.ticket, hid, ho hid]
      rfl) }
    refine Bounded.confirmOrWait (r := { r with confirm := r.confirm + 1 }) hb hrun ?_ hr hx hid hs (ho hid)
    unfold Watch.inUse
    omega
  next hs => exact back _ (by rw [hs]; decide)
  next hs => exact back _ (by rw [hs]; decide)

/-- A group against the table: its records stand there, and its range is apart from all others. -/
structure SpanGroup.Fits (g : SpanGroup) (rs : List LocalRecord) : Prop where
  range  : g.first ≤ g.last
  nodup  : g.locals.Nodup
  held   : ∀ x ∈ g.locals, x ∈ rs
  others : ∀ x ∈ rs, x ∉ g.locals → near g.first g.last x.first x.last = false

/-- The records that are not of the group. -/
def SpanGroup.outside (g : SpanGroup) (rs : List LocalRecord) : List LocalRecord := rs.filter fun x => !(g.locals.contains x)

theorem SpanGroup.mem_outside {g : SpanGroup} {rs : List LocalRecord} {x : LocalRecord} : x ∈ g.outside rs ↔ x ∈ rs ∧ x ∉ g.locals := by
  simp [outside, List.mem_filter]

/-- A table is the records of a group in it, and the others. -/
theorem SpanGroup.Fits.perm {g : SpanGroup} {rs : List LocalRecord} (h : g.Fits rs) (hrs : rs.Nodup) :
    rs.Perm (g.locals ++ g.outside rs) := by
  refine (List.filter_append_perm (fun x => g.locals.contains x) rs).symm.trans (List.Perm.append_right _ ?_)
  refine (List.perm_ext_iff_of_nodup (hrs.filter _) h.nodup).2 fun x => ?_
  simp only [List.mem_filter, List.contains_iff_mem]
  exact ⟨And.right, fun hx => ⟨h.held x hx, hx⟩⟩

/-- The records of a group become one in its range, and the others stay (R138, R139). -/
theorem Bounded.updateGroup {g : SpanGroup} {n : Nat} (h : Bounded s) (hrun : s.ctrl.station = .run) (hg : g.Fits s.watch.locals)
    (hne : g.locals ≠ []) : InRun (fun t => Bounded t ∧ Joins g.first g.last (g.outside s.watch.locals) t.watch.locals) (updateGroup n g s) := by
  unfold Machine.updateGroup
  split
  next hnil => exact absurd hnil hne
  next r rest hlocals =>
    obtain ⟨hmem, hnone⟩ := pickKept_spec r rest
    rw [← hlocals] at hmem hnone
    generalize pickKept r rest = kept at *
    generalize hended : (((g.locals.erase kept).foldr insertById []).filter fun (x : LocalRecord) => x.id.isSome) = ended
    have hpending := h.table.pending kept (hg.held kept hmem)
    have hmerged : (g.merged n kept).id = none ↔ (g.merged n kept).state = .pending := by
      change kept.id = none ↔ mergedState g.locals = .pending
      rw [mergedState_pending_iff]
      exact ⟨fun hid x hx => (h.table.pending x (hg.held x hx)).1 (hnone hid x hx), fun hs => hpending.2 (hs kept hmem)⟩
    -- The kept record and those with an id stay live until they are dealt with.
    have hout : Tracked (ended.map LocalRecord.ticket ++ kept.ticket :: (g.outside s.watch.locals).map LocalRecord.ticket)
        (s.onWatch fun w => { w with locals := g.outside w.locals }) := by
      have hsome : ended.Perm ((g.locals.erase kept).filter fun x => x.id.isSome) := by
        rw [← hended]
        exact (foldr_insertById_perm _).filter _
      have hsplit : s.watch.locals.Perm
          (((g.locals.erase kept).filter fun x => !x.id.isSome) ++ (ended ++ kept :: g.outside s.watch.locals)) := by
        refine (hg.perm h.table.nodup).trans ?_
        refine ((List.perm_cons_erase hmem).append_right _).trans ?_
        refine (((List.filter_append_perm (fun x : LocalRecord => x.id.isSome) _).symm.trans
          (List.perm_append_comm.trans (hsome.symm.append_left _))).cons kept |>.append_right _).trans ?_
        simp only [List.cons_append, List.append_assoc]
        exact List.perm_middle.symm.trans ((List.perm_middle.symm).append_left _)
      have hledger := h.ledger.perm (hsplit.map LocalRecord.ticket)
      rw [List.map_append, List.map_append, List.map_cons] at hledger
      refine ⟨h.within, h.full, hledger.forget (List.sublist_append_right _ _) ?_, h.table.sublist List.filter_sublist, h.bins⟩
      have hsilent : (((g.locals.erase kept).filter fun x => !x.id.isSome).map LocalRecord.ticket).filterMap Ticket.owing = [] := by
        refine List.filterMap_eq_nil_iff.2 (List.forall_mem_map.2 fun x hx => ?_)
        obtain ⟨hx, hid⟩ := List.mem_filter.1 hx
        have hid : x.id = none := by simpa using hid
        rw [LocalRecord.ticket, h.table.silent x (hg.held x (List.mem_of_mem_erase hx)) hid]
        rfl
      rw [List.filterMap_append (l := List.map _ (List.filter _ _)), hsilent, List.nil_append]
    have hids : ∀ x ∈ ended, x.id.isSome = true := fun x hx => by
      rw [← hended] at hx
      exact (List.mem_filter.1 hx).2
    have hends := InRun.foldl (s := s.onWatch fun w => { w with locals := g.outside w.locals })
      (R := fun rs t => Tracked (rs.map LocalRecord.ticket ++ kept.ticket :: (g.outside s.watch.locals).map LocalRecord.ticket) t
        ∧ t.watch.locals = g.outside s.watch.locals ∧ ∀ x ∈ rs, x.id.isSome = true)
      (f := Machine.endRecord n) ended (.inl ⟨hrun, hout, rfl, hids⟩) fun x rs t hrun ht => by
        obtain ⟨ht, hl, hids⟩ := ht
        obtain ⟨hid, hids⟩ := List.forall_mem_cons.1 hids
        obtain ⟨i, hi⟩ := Option.isSome_iff_exists.1 hid
        exact (ht.endRecord hrun hi).imp fun u hu => ⟨hu.1, hu.2.trans hl, hids⟩
    dsimp only
    rw [hended]
    refine hends.whileRun fun hrun ht => ?_
    obtain ⟨ht, hl, -⟩ := ht
    rw [← hl] at ht ⊢
    refine Tracked.advanceMerged (r := g.merged n kept) ht hrun hg.range (fun x hx => ?_) hmerged
      (h.table.silent kept (hg.held kept hmem))
    rw [hl] at hx
    exact hg.others x (SpanGroup.mem_outside.1 hx).1 (SpanGroup.mem_outside.1 hx).2

end Sys2Proof.Machine

/-! The evaluation of a section as a whole keeps the invariant. -/

namespace Sys2Proof.Machine

variable {s t : State} {live : List Ticket}

/-! ### Records that no group took in (R141) -/

/-- One record of a table changes in place or goes; no span is new. -/
structure Eases (r : LocalRecord) (rs rs' : List LocalRecord) : Prop where
  kept  : ∀ x ∈ rs, x ≠ r → x ∈ rs'
  spans : ∀ x ∈ rs', ∃ y ∈ rs, x.first = y.first ∧ x.last = y.last

theorem eases_refl (r : LocalRecord) (rs : List LocalRecord) : Eases r rs rs := ⟨fun _ hx _ => hx, fun x hx => ⟨x, hx, rfl, rfl⟩⟩

theorem eases_erase (r : LocalRecord) (rs : List LocalRecord) : Eases r rs (rs.erase r) :=
  ⟨fun _ hx hne => (List.mem_erase_of_ne hne).2 hx, fun x hx => ⟨x, List.mem_of_mem_erase hx, rfl, rfl⟩⟩

/-- A record taken out of the table is still live. -/
theorem Bounded.takeOut {r : LocalRecord} (h : Bounded s) (hr : r ∈ s.watch.locals) :
    Tracked (r.ticket :: (s.watch.locals.erase r).map LocalRecord.ticket)
      (s.onWatch fun w => { w with locals := w.locals.erase r }) :=
  { h with
    ledger := h.ledger.perm ((List.perm_cons_erase hr).map LocalRecord.ticket)
    table := h.table.sublist List.erase_sublist }

/-- A RAISED or EASING record with one clear section more (R141). -/
theorem Bounded.easeRecord {r : LocalRecord} {n c : Nat} (h : Bounded s) (hrun : s.ctrl.station = .run) (hr : r ∈ s.watch.locals)
    (hs : r.state ≠ .pending) :
    InRun (fun t => Bounded t ∧ Eases r s.watch.locals t.watch.locals) (easeRecord n c r s) := by
  unfold Machine.easeRecord
  split
  · obtain ⟨i, hi⟩ := Option.ne_none_iff_exists'.1 (mt (h.table.pending r hr).1 hs)
    refine ((h.takeOut hr).endRecord hrun hi).imp fun t ht => ?_
    obtain ⟨ht, hl⟩ := ht
    have hl : t.watch.locals = s.watch.locals.erase r := hl
    rw [← hl] at ht
    exact ⟨ht, hl ▸ eases_erase r _⟩
  · refine .inl ⟨hrun, ⟨h.within, h.full, ?_, ?_, h.bins⟩, fun x hx hne => ?_, List.forall_mem_map.2 fun x hx => ?_⟩
    · refine h.ledger.perm (.of_eq ?_)
      change _ = (s.watch.locals.map _).map _
      rw [List.map_map]
      refine List.map_congr_left fun x _ => ?_
      dsimp only [Function.comp]
      split
      next he => rw [he]; rfl
      next => rfl
    · refine TableSound.map h.table (fun x _ => ?_) (fun x _ => ?_) fun x _ hx => ?_ <;> split
      next he => subst he; exact ⟨rfl, rfl⟩
      next => exact ⟨rfl, rfl⟩
      next he => subst he; exact ⟨rfl, by simp [hs]⟩
      next => exact ⟨rfl, .rfl⟩
      next he => subst he; rfl
      next => rfl
    · exact List.mem_map.2 ⟨x, hx, if_neg hne⟩
    · split
      · exact ⟨r, hr, rfl, rfl⟩
      · exact ⟨x, hx, rfl, rfl⟩

/-- One record that no group took in moves its state, or goes (R141). -/
theorem Bounded.moveUnmatched {r : LocalRecord} {n : Nat} {bins : List BinRecord} (h : Bounded s) (hrun : s.ctrl.station = .run)
    (hr : r ∈ s.watch.locals) :
    InRun (fun t => Bounded t ∧ Eases r s.watch.locals t.watch.locals) (moveUnmatched n bins r s) := by
  have stays : InRun (fun t => Bounded t ∧ Eases r s.watch.locals t.watch.locals) s := .inl ⟨hrun, h, eases_refl r _⟩
  unfold Machine.moveUnmatched
  dsimp only
  split
  · exact stays
  · split
    next hs =>
      have hid := (h.table.pending r hr).2 hs
      have hticket : r.ticket = ⟨none, false⟩ := by rw [LocalRecord.ticket, hid, h.table.silent r hr hid]
      have hout := h.takeOut hr
      rw [hticket] at hout
      exact .inl ⟨hrun, { hout with ledger := hout.ledger.forget (List.sublist_cons_self _ _) rfl }, eases_erase r _⟩
    next hs =>
      split
      · exact h.easeRecord hrun hr (by rw [hs]; decide)
      · exact stays
    next hs =>
      split
      · exact h.easeRecord hrun hr (by rw [hs]; decide)
      · exact stays

/-! ### The evaluation in progress (R135) -/

/-- A range within another is near nothing that the other is not near. -/
theorem near_within {a b c d c' d' : Nat} (h : near a b c d = false) (hc : c ≤ c') (hd : d' ≤ d) : near a b c' d' = false := by
  rw [near_eq_false] at h ⊢
  omega

/-- What the rest of an evaluation has to go on with: groups, records that no group took in, and spans that no record matched. -/
structure Unprocessed (gs : List SpanGroup) (left : List LocalRecord) (fresh : List Span) (rs : List LocalRecord) : Prop where
  held       : ∀ x ∈ gs.flatMap (·.locals) ++ left, x ∈ rs
  nodup      : (gs.flatMap (·.locals) ++ left).Nodup
  ranges     : ∀ g ∈ gs, g.first ≤ g.last
  apart      : gs.Pairwise fun g g' => near g.first g.last g'.first g'.last = false
  others     : ∀ g ∈ gs, ∀ x ∈ rs, x ∉ g.locals → near g.first g.last x.first x.last = false
  freshRange : ∀ sp ∈ fresh, sp.first ≤ sp.last
  freshApart : fresh.Pairwise fun x y => near x.first x.last y.first y.last = false
  freshFar   : ∀ sp ∈ fresh, ∀ x ∈ rs, near sp.first sp.last x.first x.last = false
  freshGroup : ∀ sp ∈ fresh, ∀ g ∈ gs, g.locals ≠ [] → near sp.first sp.last g.first g.last = false

namespace Unprocessed
variable {g : SpanGroup} {gs : List SpanGroup} {r : LocalRecord} {left rs rs' : List LocalRecord} {sp : Span} {fresh : List Span}

theorem fits (h : Unprocessed (g :: gs) left fresh rs) : g.Fits rs where
  range := h.ranges g List.mem_cons_self
  nodup := by
    have := h.nodup
    rw [List.flatMap_cons, List.append_assoc] at this
    exact (List.nodup_append'.1 this).1
  held x hx := h.held x (by simp [hx])
  others := h.others g List.mem_cons_self

/-- A group without local records is dropped. -/
theorem drop (h : Unprocessed (g :: gs) left fresh rs) (hnil : g.locals = []) : Unprocessed gs left fresh rs where
  held := by simpa [hnil] using h.held
  nodup := by simpa [hnil] using h.nodup
  ranges g' hg' := h.ranges g' (List.mem_cons_of_mem _ hg')
  apart := (List.pairwise_cons.1 h.apart).2
  others g' hg' := h.others g' (List.mem_cons_of_mem _ hg')
  freshRange := h.freshRange
  freshApart := h.freshApart
  freshFar := h.freshFar
  freshGroup sp hsp g' hg' := h.freshGroup sp hsp g' (List.mem_cons_of_mem _ hg')

/-- A group updated. -/
theorem group (h : Unprocessed (g :: gs) left fresh rs) (hne : g.locals ≠ []) (hj : Joins g.first g.last (g.outside rs) rs') :
    Unprocessed gs left fresh rs' := by
  have hnodup := h.nodup
  rw [List.flatMap_cons, List.append_assoc] at hnodup
  obtain ⟨-, hrest, hdisjoint⟩ := List.nodup_append'.1 hnodup
  have hjoined : ∀ x ∈ rs', x ∈ rs ∨ (x.first = g.first ∧ x.last = g.last) := fun x hx =>
    (hj.joined x hx).imp_left fun hx => (SpanGroup.mem_outside.1 hx).1
  refine ⟨fun x hx => ?_, hrest, fun g' hg' => h.ranges g' (List.mem_cons_of_mem _ hg'), (List.pairwise_cons.1 h.apart).2,
    fun g' hg' x hx hout => ?_, h.freshRange, h.freshApart, fun sp hsp x hx => ?_,
    fun sp hsp g' hg' => h.freshGroup sp hsp g' (List.mem_cons_of_mem _ hg')⟩
  · refine hj.kept x (SpanGroup.mem_outside.2 ⟨h.held x ?_, fun hg => hdisjoint hg hx⟩)
    rw [List.flatMap_cons, List.append_assoc]
    exact List.mem_append_right _ hx
  · obtain hx | ⟨hfirst, hlast⟩ := hjoined x hx
    · exact h.others g' (List.mem_cons_of_mem _ hg') x hx hout
    · rw [hfirst, hlast, near_comm]
      exact (List.pairwise_cons.1 h.apart).1 g' hg'
  · obtain hx | ⟨hfirst, hlast⟩ := hjoined x hx
    · exact h.freshFar sp hsp x hx
    · rw [hfirst, hlast]
      exact h.freshGroup sp hsp g List.mem_cons_self hne

/-- A record that no group took in moved. -/
theorem record (h : Unprocessed [] (r :: left) fresh rs) (he : Eases r rs rs') : Unprocessed [] left fresh rs' := by
  obtain ⟨hr, hleft⟩ := List.nodup_cons.1 h.nodup
  refine ⟨fun x hx => he.kept x (h.held x (List.mem_cons_of_mem _ hx)) fun hxr => hr (hxr ▸ hx), hleft, nofun, .nil, nofun,
    h.freshRange, h.freshApart, fun sp hsp x hx => ?_, fun _ _ => nofun⟩
  obtain ⟨y, hy, hfirst, hlast⟩ := he.spans x hx
  rw [hfirst, hlast]
  exact h.freshFar sp hsp y hy

/-- A span that no record matched has made a record of its own, or been dropped. -/
theorem span (h : Unprocessed [] [] (sp :: fresh) rs) (hj : Joins sp.first sp.last rs rs') : Unprocessed [] [] fresh rs' := by
  obtain ⟨hsp, hfresh⟩ := List.pairwise_cons.1 h.freshApart
  refine ⟨nofun, .nil, nofun, .nil, nofun, fun y hy => h.freshRange y (List.mem_cons_of_mem _ hy), hfresh, fun y hy x hx => ?_,
    fun _ _ => nofun⟩
  obtain hx | ⟨hfirst, hlast⟩ := hj.joined x hx
  · exact h.freshFar y (List.mem_cons_of_mem _ hy) x hx
  · rw [hfirst, hlast, near_comm]
    exact hsp y hy

end Unprocessed

/-- The evaluation begins with all its groups, and spans and records that are apart from one another. -/
theorem Gathered.unprocessed {gs : List SpanGroup} {left rs : List LocalRecord} {sps : List Span} (h : Gathered gs left sps rs)
    (hrs : rs.Nodup) (hranges : ∀ sp ∈ sps, sp.first ≤ sp.last)
    (hsps : sps.Pairwise fun x y => near x.first x.last y.first y.last = false) :
    Unprocessed gs left ((gs.filter fun g => g.locals.isEmpty).flatMap (·.spans)) rs := by
  have hsymm : Std.Symm fun g g' : SpanGroup => near g.first g.last g'.first g'.last = false := ⟨fun _ _ h => (near_comm ..).trans h⟩
  have hsymm' : Std.Symm fun g g' : Span => near g.first g.last g'.first g'.last = false := ⟨fun _ _ h => (near_comm ..).trans h⟩
  have hfresh : ∀ sp ∈ (gs.filter fun g => g.locals.isEmpty).flatMap (·.spans), ∃ g ∈ gs, g.locals = [] ∧ sp ∈ g.spans := fun sp hsp => by
    obtain ⟨g, hg, hsp⟩ := List.mem_flatMap.1 hsp
    obtain ⟨hg, hnil⟩ := List.mem_filter.1 hg
    exact ⟨g, hg, List.isEmpty_iff.1 hnil, hsp⟩
  have hothers : ∀ g ∈ gs, ∀ x ∈ rs, x ∉ g.locals → near g.first g.last x.first x.last = false := fun g hg x hx hout => by
    obtain hx | hx := List.mem_append.1 (h.locals.symm.subset hx)
    · obtain ⟨g', hg', hx⟩ := List.mem_flatMap.1 hx
      have hne : g ≠ g' := fun he => hout (he ▸ hx)
      obtain ⟨hfirst, hlast⟩ := (h.hulls g' hg').locals x hx
      exact near_within (h.apart.forall hg hg' hne) hfirst hlast
    · exact h.left g hg x hx
  have hwithin : ∀ g ∈ gs, ∀ sp ∈ g.spans, ∀ a b : Nat, near g.first g.last a b = false → near sp.first sp.last a b = false :=
    fun g hg sp hsp a b hab => by
      obtain ⟨hfirst, hlast⟩ := (h.hulls g hg).spans sp hsp
      rw [near_comm] at hab ⊢
      exact near_within hab hfirst hlast
  have hsub := List.filter_sublist (p := fun g : SpanGroup => g.locals.isEmpty) (l := gs) |>.flatMap (·.spans)
  refine ⟨fun x hx => h.locals.subset hx, h.locals.nodup_iff.2 hrs, fun g hg => (h.hulls g hg).range, h.apart, hothers,
    fun sp hsp => hranges sp (h.spans.subset (hsub.subset hsp)), (h.spans.symm.pairwise hsps (hsymm'.symm _ _)).sublist hsub,
    fun sp hsp x hx => ?_, fun sp hsp g hg hne => ?_⟩ <;> obtain ⟨g', hg', hnil, hsp⟩ := hfresh sp hsp
  · exact hwithin g' hg' sp hsp _ _ (hothers g' hg' x hx (by rw [hnil]; exact List.not_mem_nil))
  · exact hwithin g' hg' sp hsp _ _ (h.apart.forall hg' hg fun he => hne (he ▸ hnil))

/-- Every peer record ages (R143). -/
theorem Bounded.agePeers (h : Bounded s) : Bounded (agePeers s) := by
  refine ⟨h.within, h.full, h.ledger.withPeers ?_, h.table, h.bins⟩
  have hcapacity := h.ledger.capacity
  have hfewer : ((s.watch.peers.map fun p => { p with age := p.age - 1 }).filter fun p => decide (0 < p.age)).length
      ≤ s.watch.peers.length := (List.length_filter_le _ _).trans (List.length_map _).le
  exact (Nat.add_le_add_left hfewer _).trans hcapacity

/-- The evaluation of a section whose bins ascend. -/
theorem Bounded.evaluateSection {n : Nat} {bins : List BinRecord} (h : Bounded s) (hrun : s.ctrl.station = .run)
    (hbins : bins.Pairwise fun b c => b.bin < c.bin) : Bounded (evaluateSection n bins s) := by
  obtain ⟨hranges, hspans⟩ := spansOf_apart hbins
  obtain ⟨hgathered, -⟩ := gatherGroups_gathered (spansOf bins).length (spansOf bins) s.watch.locals (Nat.le_refl _) hranges
  have hbegun := hgathered.unprocessed h.table.nodup hranges hspans
  unfold Machine.evaluateSection
  dsimp only
  generalize gatherGroups (spansOf bins).length (spansOf bins) s.watch.locals = gathered at *
  obtain ⟨gs, left⟩ := gathered
  dsimp only at hbegun ⊢
  generalize (gs.filter fun g => g.locals.isEmpty).flatMap (·.spans) = fresh at *
  have hgroups := InRun.foldl (R := fun gs t => Bounded t ∧ Unprocessed gs left fresh t.watch.locals) (f := Machine.updateGroup n) gs
    (.inl ⟨hrun, h, hbegun⟩) fun g gs t hrun ht => by
      obtain ⟨hb, hu⟩ := ht
      by_cases hnil : g.locals = []
      · have hsame : Machine.updateGroup n g t = t := by simp only [Machine.updateGroup, hnil]
        rw [hsame]
        exact .inl ⟨hrun, hb, hu.drop hnil⟩
      · exact (hb.updateGroup hrun hu.fits hnil).imp fun u hu' => ⟨hu'.1, hu.group hnil hu'.2⟩
  have hmoved := InRun.foldl (R := fun left t => Bounded t ∧ Unprocessed [] left fresh t.watch.locals)
    (f := Machine.moveUnmatched n bins) left hgroups fun r left t hrun ht =>
      (ht.1.moveUnmatched hrun (ht.2.held r List.mem_cons_self)).imp fun u hu => ⟨hu.1, ht.2.record hu.2⟩
  have hcreated := InRun.foldl (R := fun fresh t => Bounded t ∧ Unprocessed [] [] fresh t.watch.locals)
    (f := Machine.createLocal n) fresh hmoved fun sp fresh t hrun ht =>
      (ht.1.createLocal hrun (ht.2.freshRange sp List.mem_cons_self) (ht.2.freshFar sp List.mem_cons_self)).imp
        fun u hu => ⟨hu.1, ht.2.span hu.2⟩
  refine InRun.bounded (P := Bounded) (hcreated.whileRun fun hrun ht => ?_) id
  exact .inl ⟨hrun, ht.1.agePeers⟩

end Sys2Proof.Machine

/-! Every command keeps the invariant of the line, the watch unit and the bin lists. -/

namespace Sys2Proof.Machine

variable {s t : State}

/-! ### The section store -/

namespace Bounded

theorem enterParts (n : Nat) (h : Bounded s) : Bounded (enterParts n s) := by
  obtain ⟨q, c, x, e, hc⟩ := enterParts_eq s n
  rw [e]
  refine { h with within := ⟨h.within.queue, h.within.a, h.within.b, hc h.within.c⟩, bins := fun r hr => ?_ }
  change r ∈ mapHead _ s.store.records at hr
  have hbins := h.bins
  cases hrecords : s.store.records with
  | nil =>
    rw [hrecords] at hr
    exact absurd hr List.not_mem_nil
  | cons r' rest =>
    rw [hrecords] at hr hbins
    obtain ⟨hr', hrest⟩ := List.forall_mem_cons.1 hbins
    obtain rfl | hr := List.mem_cons.1 hr
    · exact hr'
    · exact hrest r hr

theorem startReport (h : Bounded s) : Bounded (startReport s) := by
  unfold Machine.startReport
  split
  next r rest hrecords =>
    split
    · refine enterParts _ { h with bins := ?_ }
      have hbins := h.bins
      rw [hrecords] at hbins
      obtain ⟨hr, hrest⟩ := List.forall_mem_cons.1 hbins
      exact List.forall_mem_cons.2 ⟨hr, hrest⟩
    · exact h
  · exact h

theorem removeOldest (h : Bounded s) : Bounded (removeOldest s) := by
  unfold Machine.removeOldest
  split
  next r rest hrecords =>
    have hremoved : Bounded (s.onStore fun st => { st with records := rest }) :=
      h.subset fun x hx => by rw [hrecords]; exact List.mem_cons_of_mem _ hx
    dsimp only
    split
    · exact hremoved.completeDrain.startReport
    · exact hremoved.startReport
  · exact h

theorem reportPartDone {p : ReportPart} (h : Bounded s) : Bounded (reportPartDone p s) := by
  unfold Machine.reportPartDone
  split
  · split
    · have hpart : Bounded (enterPart s) := h.enterParts 1
      dsimp only
      split
      · exact hpart.removeOldest
      · exact hpart
    · exact h
  · exact h

end Bounded

/-- A record closed has the bins it had. -/
theorem SectionRecord.Ascends.close {r : SectionRecord} (u : Setup) (h : r.Ascends) : (r.close u).Ascends := by
  obtain ⟨bins, x, y, e, hb⟩ := r.close_eq u
  exact h.of_bins (by rw [e]; exact hb)

namespace Bounded

theorem countWindows (h : Bounded s) : Bounded (countWindows s) := by
  unfold Machine.countWindows
  split
  · exact (h.mapRecords fun r hr => hr.of_bins (r.countTrigger_stays _ _).bins).startReport
  · exact h
  · exact h

theorem windowTimerExpired {n : Nat} (h : Bounded s) : Bounded (windowTimerExpired n s) := by
  unfold Machine.windowTimerExpired
  split
  · split
    · exact (h.modify fun _ hr => hr.close _).startReport
    · exact h
  · exact h

theorem handleDrain {x : Received} (h : Bounded s) : Bounded (handleDrain x s) := by
  have hmarked : Bounded (s.drainMarked x.sender) :=
    h.mapRecords (f := SectionRecord.onSummary fun m => { m with drainMark := true }) fun _ hr => hr
  change Bounded (match (s.drainMarked x.sender).store.records.getLast? with
    | some r => (s.drainMarked x.sender).onStore fun st => { st with drainTarget := some r.number, drainPending := true }
    | none => if (s.drainMarked x.sender).store.drainPending then s.drainMarked x.sender
      else Machine.completeDrain ((s.drainMarked x.sender).onStore fun st => { st with drainTarget := none }))
  split
  · exact hmarked
  · split
    · exact hmarked
    · exact completeDrain (s := (s.drainMarked x.sender).onStore fun st => { st with drainTarget := none }) hmarked

/-! ### Edges -/

theorem edgeMeets {r : SectionRecord} {sd : Side} {e : PeerEdge} (h : Bounded s) : Bounded (edgeMeets r sd e s) := by
  unfold Machine.edgeMeets
  split
  · split
    · exact h.modify fun r hr => hr.of_bins (r.holdEdge_stays sd e).bins
    · exact h.record _
  · split
    · refine (h.modify fun r hr => hr.of_bins ?_).startReport
      refine .trans ?_ (r.applyEdge_follows s.ctrl.setup s.ctrl.ownNumber.toNat sd e).1.bins
      unfold SectionRecord.readyIfSettled
      split <;> rfl
    · exact h.record _
  · exact h.record _
  · exact h.record _

theorem handleEdge {x : Received} (h : Bounded s) : Bounded (handleEdge x s) := by
  unfold Machine.handleEdge
  split
  · exact h.record _
  · split
    · exact h.record _
    · split
      · exact h.record _
      · exact h.edgeMeets

/-! ### The sweep -/

theorem completeSweep (h : Bounded s) : Bounded (completeSweep s) := by
  have hclosed : Bounded (closeSweep s) := h
  unfold Machine.completeSweep
  dsimp only
  split
  · exact hclosed
  next r hr =>
    have hbins : r.Ascends := h.bins r (List.mem_of_find?_eq_some hr)
    have hheld : Bounded ((closeSweep s).onSweeping fun r => { r with state := .held }) := hclosed.onSweeping fun _ hr => hr
    have happlied := (hheld.sendEdges (r := r)).modify (n := r.number) (f := SectionRecord.applyHeldEdges
      (Machine.sendEdges r ((closeSweep s).onSweeping fun r => { r with state := .held })).ctrl.setup
      (Machine.sendEdges r ((closeSweep s).onSweeping fun r => { r with state := .held })).ctrl.ownNumber.toNat)
      fun q hq => hq.of_bins (q.applyHeldEdges_follows _ _).1.bins
    have hevaluated := whileRun_keeps (P := Bounded) _ (f := Machine.evaluateSection r.number r.bins) happlied
      fun hrun => happlied.evaluateSection hrun hbins
    refine (hevaluated.modify fun q hq => ?_).startReport
    unfold SectionRecord.startWindow
    split
    · exact hq
    · split
      · split
        · exact hq.close _
        · exact hq
      · exact hq
      · exact hq

theorem startGroup {k : Nat} (h : Bounded s) : Bounded (startGroup k s) := by
  unfold Machine.startGroup
  split
  · exact h.completeSweep
  · exact h

theorem startSweep (h : Bounded s) : Bounded (startSweep s) := by
  unfold Machine.startSweep
  dsimp only
  split
  next hd w table _ _ _ =>
    have hbegun : Bounded (sweepBegun hd w table s) :=
      h.onSweeping (f := SectionRecord.onSummary fun m => { m with sweep := some ⟨s.conv.cant, s.conv.supplyWeak,
        (table.toList.filter (toFire s.ctrl.setup hd s.conv.cant)).length,
        (table.toList.filter (isExcluded s.ctrl.setup hd s.conv.cant)).length⟩ }) fun _ hr => hr
    exact hbegun.startGroup
  · exact h

theorem gapExpired (h : Bounded s) : Bounded (gapExpired s) := by
  unfold Machine.gapExpired
  split
  · exact h.startGroup
  all_goals exact h

theorem dwellExpired (h : Bounded s) : Bounded (dwellExpired s) := by
  by_cases hk : ∃ k, s.seq.sweep = .dwell k
  · obtain ⟨k, hk⟩ := hk
    obtain ⟨f, g, e, -, hg⟩ := dwellExpired_cases hk
    rw [e]
    refine h.onSweeping (f := g) fun r hr => ?_
    obtain hg | ⟨c, ms, -, rfl⟩ := hg
    · rw [hg]
      exact hr
    · exact (c.foldl_place _ hr).1
  · unfold Machine.dwellExpired
    split
    next k hs => exact absurd ⟨k, hs⟩ hk
    all_goals exact h

theorem foreignEcho (h : Bounded s) : Bounded (foreignEcho s) := by
  unfold Machine.foreignEcho
  split
  · exact h
  · have hcounted : Bounded (s.onSweeping (SectionRecord.onSummary fun m =>
        { m with foreign := min Config.countMax (m.foreign + 1) })) := h.onSweeping fun _ hr => hr
    dsimp only
    split
    · exact hcounted.record _
    · exact hcounted

theorem echoArrives {e : EchoRecord} (h : Bounded s) : Bounded (echoArrives e s) := by
  unfold Machine.echoArrives acceptEcho
  split
  · exact h
  · exact h.foreignEcho
  · exact h.foreignEcho
  · split
    · exact h
    · split
      · exact h.foreignEcho
      · split
        · exact foreignEcho (s := s.onMember _ _) h
        · exact h

/-! ### The converter -/

theorem settleChannel {ch : Channel} (h : Bounded s) : Bounded (settleChannel ch s) := by
  unfold Machine.settleChannel
  split <;> exact h

theorem takeCant {a : Aux} {code : Nat} (h : Bounded s) : Bounded (takeCant a code s) := by
  unfold Machine.takeCant
  dsimp only
  split
  · exact h
  · exact record (s := s.onConv _) _ h

theorem cantCompleted {code : BitVec 12} (h : Bounded s) : Bounded (cantCompleted code s) := by
  unfold Machine.cantCompleted
  split
  · exact h
  · split
    · dsimp only
      apply settleChannel
      split
      · exact h.takeCant.startSweep
      · exact h.takeCant
    · exact h

theorem supplyCompleted {code : BitVec 12} (h : Bounded s) : Bounded (supplyCompleted code s) := by
  unfold Machine.supplyCompleted
  split
  · exact h
  · split
    · rw [takeSupply_eq]
      apply settleChannel
      split
      · exact record (s := s.onConv _) _ h
      · exact h
    · exact h

theorem tempCompleted {code : BitVec 12} (h : Bounded s) : Bounded (tempCompleted code s) := by
  have completed : ∀ {u : State}, Bounded u → Bounded (completeScan u) := fun hu => hu
  unfold Machine.tempCompleted
  split
  · exact h
  · split
    · rw [takeTemp_eq]
      apply completed
      split
      · exact record (s := s.onConv _) _ h
      · exact h
    · exact h

theorem settleExpired (h : Bounded s) : Bounded (settleExpired s) := by
  unfold Machine.settleExpired
  split <;> exact h

theorem intervalExpired (h : Bounded s) : Bounded (intervalExpired s) := by
  unfold Machine.intervalExpired
  split
  · dsimp only
    split
    · exact settleChannel (s := (s.onConv _).onConv _) h
    · exact h
  · exact h

/-! ### The odometry unit -/

theorem skipSection {n : Nat} {reason : GapReasons} (h : Bounded s) : Bounded (skipSection n reason s) := by
  have hskipped : Bounded (s.onStore (·.skip reason)) := h
  exact hskipped.sendGapEdges

theorem startSection {n : Nat} (h : Bounded s) : Bounded (startSection n s) := by
  have hcreated : Bounded (s.onStore fun st =>
      { st with records := st.records ++ [newRecord s.ctrl.setup st n], gapCount := 0, gapReasons := .empty }) :=
    { h with bins := List.forall_mem_append.2 ⟨h.bins, List.forall_mem_singleton.2 List.Pairwise.nil⟩ }
  exact settleChannel (s := (s.onStore _).onConv _) hcreated

theorem triggerSection {n : Nat} (h : Bounded s) : Bounded (triggerSection n s) := by
  have hcounted := h.countWindows
  unfold Machine.triggerSection handleTrigger
  split
  · exact hcounted.skipSection
  · split
    · exact hcounted.skipSection
    · split
      · exact (hcounted.record _).skipSection
      · split
        · exact (hcounted.record _).skipSection
        · exact hcounted.startSection

theorem thresholdCrossed (h : Bounded s) : Bounded (thresholdCrossed s) := by
  unfold Machine.thresholdCrossed advanceNumber
  split
  · exact h
  next v _ =>
    dsimp only
    split
    · exact countWindows (s := s.onOdo _) h
    · have htriggered : Bounded ((Machine.triggerSection s.odo.nextSection s).onOdo fun o =>
          { o with nextThreshold := o.nextThreshold.map (· + (v.spacing : Int)) }) := h.triggerSection
      split
      · exact record (s := State.onOdo _ (State.onOdo _ _)) _ htriggered
      · exact htriggered

theorem pairSampled {pair : Phase} (h : Bounded s) : Bounded (pairSampled pair s) := by
  have sampled : ∀ {u : State}, Bounded u → Bounded (u.onOdo fun o => { o with phase := pair }) := fun hu => hu
  unfold Machine.pairSampled stepForward stepBackward
  dsimp only
  split
  · exact h
  · apply sampled
    split
    · exact h.record _
    · split
      · split
        · split
          · exact h.record _
          · split
            · exact thresholdCrossed (s := s.onOdo _) h
            · exact h
        · split
          · exact h.record _
          · exact h
      · exact h

/-! ### The line interface -/

theorem setRx {x : Receiver} (h : Bounded s) : Bounded (setRx x s) := h

/-- A group B or C loses its head. -/
theorem popGroup {g : TxGroup} (h : Bounded s) (hg : g ≠ .a) : Bounded (popGroup g s) := by
  have hshort : ∀ l : List Telegram, l.length ≤ 8 → l.tail.length ≤ 8 := fun l hl => by rw [List.length_tail]; omega
  cases g with
  | a => exact absurd rfl hg
  | b => exact { h with within := ⟨h.within.queue, h.within.a, hshort _ h.within.b, h.within.c⟩ }
  | c => exact { h with within := ⟨h.within.queue, h.within.a, h.within.b, hshort _ h.within.c⟩ }

theorem abandonTx (h : Bounded s) : Bounded (abandonTx s) := by
  have hended : Bounded (s.onLine fun l => { l with tx := none }) := h
  unfold Machine.abandonTx
  split
  · exact h
  · dsimp only
    split
    · split
      · exact hended.refillA rfl rfl rfl
      next hg => exact hended.popGroup hg
    · exact hended

theorem lineIdles (h : Bounded s) : Bounded (lineIdles s) := by
  unfold Machine.lineIdles
  split
  · exact offer (s := s.onLine _) h
  · exact h

theorem headerEnds {a : Header} (h : Bounded s) : Bounded (headerEnds a s) := by
  unfold Machine.headerEnds
  split
  · split
    · exact h
    · split
      · exact (h.setRx (x := .idleWait)).record _
      · split <;> exact h
  all_goals exact h

theorem telegramEnds {p : List Byte} {c : BitVec 16} (h : Bounded s) : Bounded (telegramEnds p c s) := by
  have hdone := h.setRx (x := .idleWait)
  unfold Machine.telegramEnds
  split
  · split
    · dsimp only
      split
      · exact hdone
      · split
        · exact hdone.record _
        · split
          · exact hdone.record _
          next hroom =>
            refine { h with within := ⟨?_, h.within.a, h.within.b, h.within.c⟩ }
            change (s.line.queue ++ [_]).length ≤ 4
            rw [List.length_append, List.length_singleton]
            exact Nat.lt_of_not_le hroom
    · exact h
  all_goals exact h

theorem quietSpellSeen {d : Bool} {n : Nat} (h : Bounded s) : Bounded (quietSpellSeen d n s) := by
  unfold Machine.quietSpellSeen
  split
  · split
    · exact (h.setRx (x := .idleWait)).record _
    · exact h
  all_goals exact h

theorem contentionIsLost (h : Bounded s) : Bounded (contentionIsLost s) := by
  unfold Machine.contentionIsLost
  split
  · apply abandonTx
    split <;> exact h
  · exact h

theorem readbackMismatches (h : Bounded s) : Bounded (readbackMismatches s) := by
  unfold Machine.readbackMismatches
  split
  · exact (h.setRx (x := .idleWait)).abandonTx
  · exact h

theorem readbackTransitionSeen (h : Bounded s) : Bounded (readbackTransitionSeen s) := by
  unfold Machine.readbackTransitionSeen
  split
  · exact record (s := s.onLine fun l => { l with judging := false }) _ h
  · exact h

theorem firstTransitionSeen (h : Bounded s) : Bounded (firstTransitionSeen s) := by
  unfold Machine.firstTransitionSeen
  split <;> exact h

theorem transmissionCompletes (h : Bounded s) : Bounded (transmissionCompletes s) := by
  have hended : Bounded (s.onLine fun l => { l with tx := none }) := h
  unfold Machine.transmissionCompletes
  split
  · exact h
  next x _ =>
    dsimp only
    split
    next hg =>
      rw [hg]
      exact hended.refillA rfl rfl rfl
    next hg _ =>
      have hpopped : Bounded (Machine.setRx .idleWait (Machine.popGroup x.group (s.onLine fun l => { l with tx := none }))) :=
        hended.popGroup (by rw [hg]; decide)
      split
      · exact hpopped
      · exact hpopped.reportPartDone
    next ha _ => exact hended.popGroup ha

/-! ### The halt -/

theorem abortSection (h : Bounded s) : Bounded (abortSection s) := by
  unfold Machine.abortSection
  split
  · exact h
  · refine h.subset (f := Store.discardSweeping) fun r hr => ?_
    rw [Store.discardSweeping_records] at hr
    exact List.mem_of_mem_filter hr

theorem abortForHalt (h : Bounded s) : Bounded (abortForHalt s) := by
  unfold Machine.abortForHalt
  dsimp only
  split
  · exact h.abortSection.completeDrain
  · exact h.abortSection

/-- PENDING records go at a halt (R150). -/
theorem forgetPending (h : Bounded s) :
    Bounded (s.onWatch fun w => { w with locals := w.locals.filter fun r => decide (r.state ≠ .pending) }) := by
  refine ⟨h.within, h.full, h.ledger.forget (List.filter_sublist.map _) ?_, h.table.sublist List.filter_sublist, h.bins⟩
  change ((s.watch.locals.filter _).map _).filterMap _ = _
  rw [List.filterMap_map, List.filterMap_map, List.filterMap_filter]
  refine List.filterMap_congr fun r hr => ?_
  split
  · rfl
  next hs =>
    have hid : r.id = none := (h.table.pending r hr).2 (by simpa using hs)
    simp [Function.comp, LocalRecord.ticket, Ticket.owing, hid]

theorem enterHalted (h : Bounded s) : Bounded (enterHalted s) := by
  have hhalted : Bounded (s.onCtrl fun c => { c with station := .halted }) := h
  unfold Machine.enterHalted closeHeld
  exact (hhalted.abortForHalt.mapRecords fun r hr => by split <;> [exact hr.close _; exact hr]).startReport.forgetPending

theorem localStopFalls (h : Bounded s) : Bounded (localStopFalls s) := by
  have hbreak : Bounded (s.onLine fun l => { l with breakSend := true }) := h
  unfold Machine.localStopFalls
  split
  · exact hbreak.abandonTx.enterHalted
  · exact h

theorem breakSeen (h : Bounded s) : Bounded (breakSeen s) := by
  have hleft : Bounded ((Machine.abandonTx (Machine.setRx .idleWait s)).onLine fun l => { l with judging := false }) :=
    (h.setRx (x := .idleWait)).abandonTx
  unfold Machine.breakSeen
  dsimp only
  split
  · exact hleft.enterHalted
  · exact hleft

/-! ### Telegrams handled -/

end Bounded

/-- The attention output is the recorder's. -/
theorem followAttention_eq (s : State) : ∃ f, s.followAttention = s.onRecorder f :=
  ⟨fun r => { r with attention := s.followAttention.recorder.attention }, rfl⟩

/-- CLEAR is the recorder's alone (R186). -/
theorem handleClear_eq (x : Received) (s : State) : ∃ f, handleClear x s = s.onRecorder f := by
  unfold handleClear
  generalize (fun r : Recorder => r.clear x.payload) = g
  obtain ⟨f, e⟩ := followAttention_eq (s.onRecorder g)
  exact ⟨fun r => f (g r), e⟩

theorem kept_handleClear {Q : State → Prop} {x : Received} {s : State} (hQ : ∀ s f, Q s → Q (s.onRecorder f)) (h : Q s) :
    Q (handleClear x s) := by
  obtain ⟨f, e⟩ := handleClear_eq x s
  rw [e]
  exact hQ s f h

namespace Bounded

/-- A queued telegram is taken, and handled, discarded or recorded. -/
theorem takeOldest {mine : Received → Bool} {act : Received → State → State} (hact : ∀ x u, Bounded u → Bounded (act x u))
    (h : Bounded s) : Bounded (takeOldest mine act s) := by
  obtain e | ⟨t, rest, hq, -, hcases⟩ := takeOldest_cases s mine act
  · rw [e]
    exact h
  · have htaken : Bounded (s.onLine fun l => { l with queue := rest }) := by
      refine { h with within := ⟨?_, h.within.a, h.within.b, h.within.c⟩ }
      have := h.within.queue
      change s.line.queue.length ≤ 4 at this
      rw [hq, List.length_cons] at this
      exact (Nat.le_succ _).trans this
    obtain e | ⟨-, e⟩ | ⟨-, -, e⟩ := hcases <;> rw [e]
    · exact htaken
    · exact htaken.record _
    · exact hact _ _ htaken

theorem handleStatusReq {x : Received} (h : Bounded s) : Bounded (handleStatusReq x s) := by
  unfold Machine.handleStatusReq
  split
  next hroom => exact h.enqueueA hroom
  next => exact h.record _

/-- Other peers than before, within the table. -/
theorem withPeers {f : List PeerRecord → List PeerRecord} (h : Bounded s)
    (hf : s.watch.locals.length + (f s.watch.peers).length ≤ 16) : Bounded (s.onWatch fun w => { w with peers := f w.peers }) := by
  refine ⟨h.within, h.full, h.ledger.withPeers ?_, h.table, h.bins⟩
  rw [List.length_map]
  exact hf

theorem capacity (h : Bounded s) : s.watch.locals.length + s.watch.peers.length ≤ 16 := by
  have := h.ledger.capacity
  rwa [List.length_map] at this

theorem notePeer {source : Nat} {a : Alert} (h : Bounded s) : Bounded (notePeer source a s) := by
  unfold Machine.notePeer
  dsimp only
  split
  · refine h.withPeers (f := List.map _) ?_
    rw [List.length_map]
    exact h.capacity
  · split
    · exact h
    · split
      · split
        · exact h.record _
        next hroom =>
          refine h.withPeers (f := fun ps => ps ++ [_]) ?_
          rw [List.length_append, List.length_singleton]
          exact Nat.lt_of_not_le hroom
      · exact h

theorem corroborateRaised {first last : Nat} (h : Bounded s) : Bounded (corroborateRaised first last s) := by
  refine ⟨h.within, h.full, ?_, ?_, h.bins⟩
  · refine h.ledger.perm (.of_eq ?_)
    change _ = (s.watch.locals.map _).map _
    rw [List.map_map]
    refine List.map_congr_left fun r _ => ?_
    dsimp only [Function.comp]
    split <;> rfl
  · refine TableSound.map h.table (fun r _ => ?_) (fun r _ => ?_) fun r _ _ => ?_ <;> split <;> simp

theorem handleRaise {x : Received} (h : Bounded s) : Bounded (handleRaise x s) := by
  unfold Machine.handleRaise
  dsimp only
  split
  · exact h
  · exact h.notePeer.corroborateRaised

theorem handleEnd {x : Received} (h : Bounded s) : Bounded (handleEnd x s) := by
  refine h.withPeers (f := List.filter _) ?_
  exact (Nat.add_le_add_left (List.length_filter_le _ _) _).trans h.capacity

theorem handleClear {x : Received} (h : Bounded s) : Bounded (handleClear x s) :=
  kept_handleClear (fun _ _ h => h) h

/-! ### Station control -/

theorem handleSetup {x : Received} (h : Bounded s) : Bounded (handleSetup x s) := by
  unfold Machine.handleSetup storeSetup
  dsimp only
  split
  · split <;> exact h
  · exact h.record _

theorem enterRun (h : Bounded s) : Bounded (enterRun s) := by
  rw [enterRun_eq]
  unfold startOdometry
  dsimp only
  refine triggerSection (s := State.onOdo _ _) (bounded_of_cleared ?_ rfl ?_)
  · exact h.within
  · exact h.bins

theorem handleStart {x : Received} (h : Bounded s) : Bounded (handleStart x s) := by
  unfold Machine.handleStart
  split
  · split
    · exact record (s := s.onCtrl _) _ h
    · exact h.enterRun
  all_goals exact h

theorem handleRestart {x : Received} (h : Bounded s) : Bounded (handleRestart x s) := by
  have hshort : ∀ (l : Line) (g : TxGroup) (n : Nat), (l.group g).length ≤ n → (l.keepSending g).length ≤ n := fun l g n hn => by
    unfold Line.keepSending
    split
    · split
      · exact (List.length_take_le' _ _).trans hn
      · exact Nat.zero_le _
    · exact Nat.zero_le _
  have hwithin : s.line.restart.traffic.Within :=
    ⟨h.within.queue, hshort s.line .a 4 h.within.a, hshort s.line .b 8 h.within.b, hshort s.line .c 8 h.within.c⟩
  unfold Machine.handleRestart
  dsimp only
  split <;> exact bounded_of_cleared hwithin rfl fun _ hr => absurd hr List.not_mem_nil

theorem assertReset (h : Bounded s) : Bounded (assertReset s) := h

end Bounded

theorem bounded_afterReset (straps : BitVec 4) (pair : Phase) : Bounded (afterReset straps pair s) :=
  bounded_of_cleared ⟨Nat.zero_le _, Nat.zero_le _, Nat.zero_le _, Nat.zero_le _⟩ rfl fun _ hr => absurd hr List.not_mem_nil

/-! ### Every command -/

theorem Bounded.exec {i : Instr} (h : Bounded s) (he : exec i s = .next t) : Bounded t := by
  have E : ∀ {f : State → State}, live f s = .next t → Bounded (f s) → Bounded t :=
    fun he hf => live_next (P := Bounded) s he h fun _ => hf
  cases i <;> simp only [Machine.exec] at he
  case powerOrPinReset straps pair => cases he; exact bounded_afterReset straps pair
  case resetAsserted => cases he; exact h.assertReset
  case phaseTransition => exact E he h.pairSampled
  case localStop => exact E he h.localStopFalls
  case breakSendEnd => exact E he h
  case breakDetected => exact E he h.breakSeen
  case lineIdle => exact E he h.lineIdles
  case headerEnd => exact E he h.headerEnds
  case checkSequenceEnd => exact E he h.telegramEnds
  case quietSpell => exact E he h.quietSpellSeen
  case contentionLost => exact E he h.contentionIsLost
  case readbackMismatch => exact E he h.readbackMismatches
  case readbackTransition => exact E he h.readbackTransitionSeen
  case transmissionCompletion => exact E he h.transmissionCompletes
  case setup => exact E he (h.takeOldest fun _ _ h => h.handleSetup)
  case start => exact E he (h.takeOldest fun _ _ h => h.handleStart)
  case restart => exact E he (h.takeOldest fun _ _ h => h.handleRestart)
  case edge => exact E he (h.takeOldest fun _ _ h => h.handleEdge)
  case alertRaise => exact E he (h.takeOldest fun _ _ h => h.handleRaise)
  case alertEnd => exact E he (h.takeOldest fun _ _ h => h.handleEnd)
  case statusReq => exact E he (h.takeOldest fun _ _ h => h.handleStatusReq)
  case clear => exact E he (h.takeOldest fun _ _ h => h.handleClear)
  case drain => exact E he (h.takeOldest fun _ _ h => h.handleDrain)
  case settleExpiry => exact E he h.settleExpired
  case cantCompletion => exact E he h.cantCompleted
  case supplyCompletion => exact E he h.supplyCompleted
  case tempCompletion => exact E he h.tempCompleted
  case scanIntervalExpiry => exact E he h.intervalExpired
  case dwellExpiry => exact E he h.dwellExpired
  case gapExpiry => exact E he h.gapExpired
  case echoRecord => exact E he h.echoArrives
  case windowTimerExpiry => exact E he h.windowTimerExpired
  case firstTransition => exact E he h.firstTransitionSeen

/-- Settles O54: the owed RAISEs, the owed ENDs and the announced records, each of which was live when a telegram became owed, keep the
owed list within its bound, and an evaluation keeps them in step with the records it takes out of the table (R148). -/
theorem lineCapacityKept : Obligations.LineCapacityKept := by
  intro s t h he
  exact (bounded_iff t).2 (keptByEveryStep_of_exec (Q := Bounded) (fun _ _ h => h.congr rfl rfl rfl) (fun _ _ _ h he => h.exec he) s t
    ((bounded_iff s).1 h) he)

end Sys2Proof.Machine

/-! The settings are frozen outside CONFIG: the stored setup with its marks, the failing item, the envelope table, and the own number. -/

namespace Sys2Proof.Machine

/-! ### What is frozen (R76, R112, R171, R174, R179) -/

/-- What only CONFIG changes. -/
structure Frozen where
  setup       : Setup
  marks       : BitVec 32
  failingItem : Option Nat
  env         : List (Option Nat)

/-- What of a state only CONFIG changes. -/
def State.frozen (s : State) : Frozen := ⟨s.ctrl.setup, s.ctrl.marks, s.ctrl.failingItem, s.env⟩

theorem record_frozen (k : ErrKind) (s : State) : (record k s).frozen = s.frozen := by simp [State.frozen]

/-- No operation changes what is frozen but in CONFIG. -/
theorem keptByStation_frozen (v : Frozen) : KeptByStation fun s => s.ctrl.station ≠ .config ∧ s.frozen = v where
  conv _ _ h := h
  seq _ _ h := h
  echo _ _ h := h
  store _ _ h := h
  watch _ _ h := h
  line _ _ h := h
  odo _ _ h := h
  rcd s k h := ⟨record_station_ne_config h.1, (record_frozen k s).trans h.2⟩
  env _ _ h hc := absurd hc h.1
  halt _ h _ := ⟨show Station.halted ≠ .config by decide, h.2⟩
  run _ h _ := ⟨show Station.run ≠ .config by decide, h.2⟩
  fail _ _ h hc := absurd hc h.1

/-- RESTART, which enters CONFIG, changes nothing of it either. -/
theorem keptByOdometry_frozen (v : Frozen) : KeptByOdometry fun s => s.frozen = v where
  conv _ _ h := h
  seq _ _ h := h
  echo _ _ h := h
  store _ _ h := h
  watch _ _ h := h
  line _ _ h := h
  odo _ _ h := h
  rcd s k h := (record_frozen k s).trans h

/-- No operation changes the own number. -/
theorem keptByStation_ownNumber (n : BitVec 4) : KeptByStation fun s => s.ctrl.ownNumber = n where
  conv _ _ h := h
  seq _ _ h := h
  echo _ _ h := h
  store _ _ h := h
  watch _ _ h := h
  line _ _ h := h
  odo _ _ h := h
  rcd s k h := (record_ownNumber s k).trans h
  env _ _ h _ := h
  halt _ h _ := h
  run _ h _ := h
  fail _ _ h _ := h

theorem assertReset_frozen (s : State) : (assertReset s).frozen = s.frozen := rfl

section
variable {c : Instr} {s t : State} (hreset : ∀ (straps : BitVec 4) (pair : Phase), c ≠ .powerOrPinReset straps pair)
  (he : exec c s = .next t)
include hreset he

/-- Only power or pin reset gives another own number. -/
theorem exec_ownNumber : t.ctrl.ownNumber = s.ctrl.ownNumber := by
  have K := keptByStation_ownNumber s.ctrl.ownNumber
  exact kept_exec K.toKeptByOdometry (fun _ => K.halt) (fun _ _ _ => kept_handleStart K)
    (fun _ _ _ => kept_handleSetup K.toKeptByOdometry fun _ _ h _ _ => h)
    (fun _ _ _ => kept_handleRestart K.toKeptByOdometry fun _ h => h)
    (fun _ _ _ => kept_handleClear (Q := fun u => u.ctrl.ownNumber = s.ctrl.ownNumber) fun _ _ h => h)
    (fun a b hc => absurd hc (hreset a b))
    (fun _ => rfl) rfl he

/-- Outside CONFIG only power or pin reset changes what is frozen. -/
theorem exec_frozen (hs : s.ctrl.station ≠ .config) : t.frozen = s.frozen := by
  by_cases hc : c = .restart
  · subst hc
    exact kept_exec (keptByOdometry_frozen s.frozen) (by simp) (by simp) (by simp)
      (fun _ _ _ => kept_handleRestart (keptByOdometry_frozen s.frozen) fun _ h => h) (by simp) (by simp) (by simp) rfl he
  · have K := keptByStation_frozen s.frozen
    exact (kept_exec K.toKeptByOdometry (fun _ => K.halt) (fun _ _ _ => kept_handleStart K)
      (fun _ _ _ => kept_handleSetup K.toKeptByOdometry fun _ _ h hc => absurd hc h.1) (fun h => absurd h hc)
      (fun _ _ _ => kept_handleClear (Q := fun u => u.ctrl.station ≠ .config ∧ u.frozen = s.frozen) fun _ _ h => h)
      (fun a b hc => absurd hc (hreset a b)) (fun _ => ⟨hs, assertReset_frozen s⟩) ⟨hs, rfl⟩ he).2

end

/-- Settles O6: what the operations change of station control and the envelope table, they change in CONFIG. -/
theorem setupFrozenOutsideConfig : Obligations.SetupFrozenOutsideConfig := by
  intro c s t hreset he
  refine ⟨exec_ownNumber hreset he, fun hs => ?_⟩
  have hfrozen := exec_frozen hreset he hs
  exact ⟨congrArg Frozen.setup hfrozen, congrArg Frozen.marks hfrozen, congrArg Frozen.failingItem hfrozen, congrArg Frozen.env hfrozen⟩

end Sys2Proof.Machine

/-! The clearance of a radius (R77), and the envelope table expanded from its segments (R75). -/

namespace Sys2Proof.Machine

/-! ### The clearance (R77) -/

theorem clampInt_of_mem {lo hi v : Int} (hlo : lo ≤ v) (hhi : v ≤ hi) : clampInt lo hi v = v := by
  unfold clampInt
  omega

theorem clampInt_of_gt {lo hi v : Int} (h : lo ≤ hi) (hv : hi < v) : clampInt lo hi v = hi := by
  unfold clampInt
  omega

theorem clampInt_of_lt {lo hi v : Int} (hv : v < lo) : clampInt lo hi v = lo := by
  unfold clampInt
  omega

theorem clearance_some (r e : Nat) : clearance r (some e) = some (clampInt (-32767) 32767 ((r : Int) - e)) := rfl

/-- Settles O32: within the clamp's limits, above them, and below them. -/
theorem clearanceSaturates : Obligations.ClearanceSaturates := by
  refine ⟨fun _ => rfl, fun r e => ⟨fun hlo hhi => ?_, fun h => ?_, fun h => ?_⟩⟩ <;> rw [clearance_some]
  · rw [clampInt_of_mem hlo hhi]
  · rw [clampInt_of_gt (by decide) h]
  · rw [clampInt_of_lt h]

/-! ### A segment (R75) -/

/-- A rounded quotient lies between integers that the quotient lies between. -/
theorem roundHalfAway_mem {p lo hi : Int} {q : Nat} (hq : 1 ≤ q) (hlo : lo * q ≤ p) (hhi : p ≤ hi * q) :
    lo ≤ roundHalfAway p q ∧ roundHalfAway p q ≤ hi := by
  obtain ⟨hnear, -⟩ := roundHalfAway_nearest p hq
  obtain ⟨hbelow, habove⟩ := abs_le.1 (show |2 * ((q : Int) * roundHalfAway p q - p)| ≤ q by rwa [abs_mul])
  generalize roundHalfAway p q = v at *
  have hq : (1 : Int) ≤ q := by exact_mod_cast hq
  constructor <;> by_contra hout
  · have hstep : (v + 1) * q ≤ lo * q := mul_le_mul_of_nonneg_right (by omega) (by omega)
    linarith
  · have hstep : hi * q ≤ (v - 1) * q := mul_le_mul_of_nonneg_right (by omega) (by omega)
    linarith

/-- A multiple of the divisor is its own quotient. -/
theorem roundHalfAway_mul (v : Int) {q : Nat} (hq : 1 ≤ q) : roundHalfAway (v * q) q = v := by
  obtain ⟨hlo, hhi⟩ := roundHalfAway_mem hq (le_refl (v * q)) (le_refl (v * q))
  exact le_antisymm hhi hlo

namespace Segment
variable {g : Segment} {b : Nat}

theorem covers_iff : g.covers b = true ↔ g.b0 ≤ b ∧ b ≤ g.b1 := by simp [covers]

/-- The rounded term of a bin in a segment of more than one (R75). -/
def term (g : Segment) (b : Nat) : Int := roundHalfAway (((g.re : Int) - g.rs) * ((b : Int) - g.b0)) (g.b1 - g.b0)

theorem radius_of_lt (h : g.b0 < g.b1) : g.radius b = ((g.rs : Int) + g.term b).toNat := if_pos h

theorem radius_of_eq (h : g.b0 = g.b1) : g.radius b = g.rs := if_neg (by omega)

/-- The term of the first bin is 0. -/
theorem term_first (h : g.b0 < g.b1) : g.term g.b0 = 0 := by
  have hzero := roundHalfAway_mul 0 (q := g.b1 - g.b0) (by omega)
  rw [zero_mul] at hzero
  rwa [term, sub_self, mul_zero]

/-- The term of the last bin is all that is between RS and RE. -/
theorem term_last (h : g.b0 < g.b1) : g.term g.b1 = (g.re : Int) - g.rs := by
  unfold term
  rw [← Int.ofNat_sub h.le]
  exact roundHalfAway_mul _ (by omega)

/-- The term of a bin between them does not leave what is between RS and RE. -/
theorem term_between (h : g.b0 < g.b1) (hlo : g.b0 ≤ b) (hhi : b ≤ g.b1) :
    (min g.rs g.re : Nat) ≤ (g.rs : Int) + g.term b ∧ (g.rs : Int) + g.term b ≤ (max g.rs g.re : Nat) := by
  have hq : 1 ≤ g.b1 - g.b0 := by omega
  have hfrom : (0 : Int) ≤ (b : Int) - g.b0 := by omega
  have hto : (b : Int) - g.b0 ≤ (g.b1 - g.b0 : Nat) := by omega
  obtain hrise | hfall := le_total g.rs g.re
  · have hrise' : (0 : Int) ≤ (g.re : Int) - g.rs := by omega
    have := roundHalfAway_mem (lo := 0) (hi := (g.re : Int) - g.rs) hq (by rw [zero_mul]; exact mul_nonneg hrise' hfrom)
      (mul_le_mul_of_nonneg_left hto hrise')
    unfold term
    omega
  · have hfall' : (g.re : Int) - g.rs ≤ 0 := by omega
    have := roundHalfAway_mem (lo := (g.re : Int) - g.rs) (hi := 0) hq (mul_le_mul_of_nonpos_left hto hfall')
      (by rw [zero_mul]; exact mul_nonpos_of_nonpos_of_nonneg hfall' hfrom)
    unfold term
    omega

/-- The radius of a covered bin is RS and its term. -/
theorem radius_eq (hlo : g.b0 ≤ b) (hhi : b ≤ g.b1) :
    (g.radius b : Int) = if g.b0 < g.b1 then (g.rs : Int) + g.term b else g.rs := by
  split
  next h =>
    obtain ⟨hge, -⟩ := term_between h hlo hhi
    rw [radius_of_lt h]
    omega
  next h => rw [radius_of_eq (by omega)]

theorem radius_between (hlo : g.b0 ≤ b) (hhi : b ≤ g.b1) : min g.rs g.re ≤ g.radius b ∧ g.radius b ≤ max g.rs g.re := by
  obtain h | h := (hlo.trans hhi).eq_or_lt
  · rw [radius_of_eq h]
    omega
  · have := term_between h hlo hhi
    rw [radius_of_lt h]
    omega

theorem radius_first (h : g.b0 ≤ g.b1) : g.radius g.b0 = g.rs := by
  obtain h | h := h.eq_or_lt
  · exact radius_of_eq h
  · rw [radius_of_lt h, term_first h]
    omega

theorem radius_last (h : g.b0 < g.b1) : g.radius g.b1 = g.re := by
  rw [radius_of_lt h, term_last h]
  omega

end Segment

/-! ### The envelope table (R75) -/

/-- The entry of a bin: the radius the segment that covers it gives. -/
theorem expandEnvelope_getElem? (segments : List (Option Segment)) {b : Nat} (hb : b < 1024) :
    (expandEnvelope segments)[b]? = some (((segments.filterMap id).find? (·.covers b)).map (·.radius b)) := by
  unfold expandEnvelope
  rw [List.getElem?_map, List.getElem?_range hb]
  rfl

theorem mem_present {segments : List (Option Segment)} {g : Segment} : g ∈ segments.filterMap id ↔ some g ∈ segments := by simp

/-- Where no two segments share a bin, the one that covers a bin is the one found. -/
theorem find_covering {gs : List Segment} {g : Segment} {b : Nat}
    (hdisjoint : gs.Pairwise fun g h => ∀ b : Nat, ¬ (g.covers b = true ∧ h.covers b = true)) (hg : g ∈ gs) (hcovers : g.covers b = true) :
    gs.find? (·.covers b) = some g := by
  obtain ⟨h, hfind⟩ := Option.isSome_iff_exists.1 (List.find?_isSome (p := (·.covers b)).2 ⟨g, hg, hcovers⟩)
  have hsymm : Std.Symm fun g h : Segment => ∀ b : Nat, ¬ (g.covers b = true ∧ h.covers b = true) :=
    ⟨fun _ _ hne b hb => hne b hb.symm⟩
  by_contra hne
  exact hdisjoint.forall hg (List.mem_of_find?_eq_some hfind) (fun he => hne (he ▸ hfind)) b
    ⟨hcovers, List.find?_some (p := fun x : Segment => x.covers b) hfind⟩

/-- Settles O31: the table's entry is the radius of the one segment that covers the bin. -/
theorem envelopeExpansion : Obligations.EnvelopeExpansion := by
  intro segments hrange hdisjoint
  refine ⟨by simp [expandEnvelope], fun b hb hnone => ?_, fun g b hg hcovers => ?_⟩
  · have hfind : (segments.filterMap id).find? (·.covers b) = none :=
      List.find?_eq_none.2 fun g hg => by simp [hnone g (mem_present.1 hg)]
    rw [expandEnvelope_getElem? segments hb, hfind, Option.map_none]
  · obtain ⟨hlo, hhi⟩ := Segment.covers_iff.1 hcovers
    obtain ⟨-, hlast, -⟩ := hrange g hg
    have hentry := expandEnvelope_getElem? segments (b := b) (by omega)
    rw [find_covering hdisjoint (mem_present.2 hg) hcovers] at hentry
    obtain ⟨hmin, hmax⟩ := Segment.radius_between hlo hhi
    refine ⟨g.radius b, hentry, Segment.radius_eq hlo hhi, hmin, hmax, ?_, ?_⟩
    · rintro rfl
      exact Segment.radius_first hhi
    · rintro rfl hlt
      exact Segment.radius_last hlt

end Sys2Proof.Machine

/-! The parts of a report (R102, R103) and the mean radius of its entries (R86). -/

namespace Sys2Proof.Machine

/-! ### The mean radius (R86) -/

/-- The rounding half up is to the nearest integer, and takes an exact half up (00_scope.md, Roundings). -/
theorem roundHalfUp_nearest (p : Nat) {q : Nat} (hq : 1 ≤ q) :
    2 * q * roundHalfUp p q ≤ 2 * p + q ∧ 2 * p + q < 2 * q * (roundHalfUp p q + 1) :=
  ⟨Nat.mul_div_le _ _, Nat.lt_mul_div_succ _ (by omega)⟩

namespace BinRecord
variable {b : BinRecord}

theorem meanRadius_none (h : b.nLast = 0) : b.meanRadius = none := if_pos h

theorem meanRadius_some (h : 1 ≤ b.nLast) : b.meanRadius = some (roundHalfUp b.rSum b.nLast) := if_neg (by omega)

end BinRecord

/-! ### The parts (R102, R103) -/

/-- The pieces of a list, so many entries at a time, are its beginning. -/
theorem flatMap_pieces {α : Type} (l : List α) (m n : Nat) :
    ((List.range n).flatMap fun k => (l.drop (m * k)).take m) = l.take (m * n) := by
  induction n with
  | zero => simp
  | succ n ih => rw [List.range_succ, List.flatMap_append, ih, List.flatMap_singleton, Nat.mul_succ, List.take_add]

namespace SectionRecord
variable {r : SectionRecord}

theorem part_entries (r : SectionRecord) (k : Nat) : (r.part k).entries = (r.entries.drop (26 * k)).take 26 := rfl

theorem length_part_entries (r : SectionRecord) (k : Nat) : (r.part k).entries.length = min 26 (r.entries.length - 26 * k) := by
  rw [part_entries, List.length_take, List.length_drop]

/-- The number of parts is one, or the least that hold the entries. -/
theorem partCount_eq (r : SectionRecord) : r.partCount = max 1 ((r.entries.length + 25) / 26) := rfl

theorem length_entries_le (r : SectionRecord) : r.entries.length ≤ r.bins.length := by
  unfold entries
  rw [List.length_map]
  exact List.length_filter_le _ _

/-- The parts carry the entries, all and in order. -/
theorem flatMap_parts (r : SectionRecord) : ((List.range r.partCount).flatMap fun k => (r.part k).entries) = r.entries := by
  simp only [part_entries]
  rw [flatMap_pieces]
  have hcount := r.partCount_eq
  exact List.take_of_length_le (by omega)

end SectionRecord

/-- Settles O34: the mean radius is the rounding half up, and the parts are the pieces of the entries. -/
theorem reportParts : Obligations.ReportParts := by
  refine ⟨fun b => ⟨b.meanRadius, rfl, BinRecord.meanRadius_none, fun h =>
    ⟨_, BinRecord.meanRadius_some h, roundHalfUp_nearest _ h⟩⟩, fun r => ?_⟩
  have hcount := r.partCount_eq
  have hlength := r.length_part_entries
  refine ⟨r.flatMap_parts, fun k => ?_, fun k hk => ?_, fun hmany => ?_, ?_, fun hbins => ?_, fun k => ⟨rfl, rfl, rfl, rfl⟩⟩
  · rw [hlength]
    omega
  · rw [hlength]
    omega
  · rw [hlength]
    omega
  · omega
  · have hentries := r.length_entries_le
    omega

end Sys2Proof.Machine

/-! A bin record after its points (R81 to R85), and the placing of a point in a bin list (R79). -/

namespace Sys2Proof.Machine

/-! ### What a point changes in its bin record (R81 to R85) -/

theorem min?_concat (cs : List Int) (c : Int) : (cs ++ [c]).min? = cs.min?.merge min (some c) := by
  cases cs with
  | nil => rfl
  | cons x xs => simp only [List.cons_append, List.min?_cons', List.foldl_append, List.foldl_cons, List.foldl_nil, Option.merge_some_some]

namespace BinRecord
variable {b : BinRecord} {warn : Nat} {c : Option Int} {p : PointRecord}

/-- The flags are those of the lowest clearance. -/
def Flagged (b : BinRecord) (warn : Nat) : Prop :=
  b.warn = b.cMin.any (fun c => decide (c < (warn : Int))) ∧ b.intrusion = b.cMin.any fun c => decide (c < 0)

theorem takeClearance_cMin (b : BinRecord) (warn : Nat) (c : Option Int) : (b.takeClearance warn c).cMin = b.cMin.merge min c := by
  obtain - | c := c
  · exact Option.merge_none_right.symm
  · unfold takeClearance
    dsimp only
    split
    next hnone => rw [hnone]; rfl
    next m hm =>
      rw [hm, Option.merge_some_some]
      split
      next hlow => exact congrArg some (min_eq_right hlow.le).symm
      next hnot => rw [hm, min_eq_left (not_lt.1 hnot)]

theorem setClearanceFlags_flagged (b : BinRecord) (warn : Nat) (c : Int) : (b.setClearanceFlags warn c).Flagged warn := ⟨rfl, rfl⟩

theorem Flagged.takeClearance (h : b.Flagged warn) : (b.takeClearance warn c).Flagged warn := by
  unfold BinRecord.takeClearance
  split
  · exact h
  · split
    · exact setClearanceFlags_flagged ..
    · split
      · exact setClearanceFlags_flagged ..
      · exact h

/-- A clearance changes c_min and its flags only. -/
theorem takeClearance_frame (b : BinRecord) (warn : Nat) (c : Option Int) : b.takeClearance warn c = { b with
    cMin := (b.takeClearance warn c).cMin
    warn := (b.takeClearance warn c).warn
    intrusion := (b.takeClearance warn c).intrusion } := by
  unfold takeClearance
  split
  · rfl
  · split
    · rfl
    · split <;> rfl

/-- A record before the point's clearance is taken. -/
def count (b : BinRecord) (p : PointRecord) : BinRecord := { b with
  nLast := b.nLast + if p.role = .last then 1 else 0
  rSum := b.rSum + if p.role = .last then p.r else 0
  qBest := b.bestAfter p.role p.q
  suspect := b.suspect || p.suspect }

theorem contribute_eq (b : BinRecord) (warn : Nat) (c : Option Int) (p : PointRecord) :
    b.contribute warn c p = (b.count p).takeClearance warn c := by
  unfold contribute count
  cases p.role <;> rfl

/-- A point that contributes changes what is counted as `count` says. -/
theorem contribute_frame (b : BinRecord) (warn : Nat) (c : Option Int) (p : PointRecord) : b.contribute warn c p = { b.count p with
    cMin := (b.contribute warn c p).cMin
    warn := (b.contribute warn c p).warn
    intrusion := (b.contribute warn c p).intrusion } := by
  rw [contribute_eq]
  exact takeClearance_frame ..

end BinRecord

/-! ### A bin record after its points -/

/-- The points with role LAST. -/
def lastPoints (ps : List PointRecord) : List PointRecord := ps.filter fun q => decide (q.role = .last)

/-- A quality is the best among the points. -/
def IsBest (best : Nat) (ps : List PointRecord) : Prop := (∃ q ∈ ps, best = q.q) ∧ ∀ q ∈ ps, q.q ≤ best

theorem isBest_singleton (p : PointRecord) : IsBest p.q [p] :=
  ⟨⟨p, List.mem_singleton_self p, rfl⟩, fun _ hq => by rw [List.mem_singleton.1 hq]⟩

theorem IsBest.concat {best : Nat} {ps : List PointRecord} (h : IsBest best ps) (q : PointRecord) : IsBest (max best q.q) (ps ++ [q]) := by
  obtain ⟨⟨x, hx, rfl⟩, hle⟩ := h
  constructor
  · obtain hq | hq := le_total q.q x.q
    · exact ⟨x, List.mem_append_left _ hx, max_eq_left hq⟩
    · exact ⟨q, List.mem_append_right _ (List.mem_singleton_self q), max_eq_right hq⟩
  · intro y hy
    obtain hy | hy := List.mem_append.1 hy
    · exact (hle y hy).trans (le_max_left _ _)
    · rw [List.mem_singleton.1 hy]
      exact le_max_right _ _

/-- A bin record holds what its points say; `p` is the point it was created for. -/
structure Gathers (bin warn : Nat) (env : Option Nat) (p : PointRecord) (ps : List PointRecord) (b : BinRecord) : Prop where
  bin       : b.bin = bin
  nLast     : b.nLast = (lastPoints ps).length
  rSum      : b.rSum = ((lastPoints ps).map (·.r)).sum
  qBest     : IsBest b.qBest (if lastPoints ps = [] then p :: ps else lastPoints ps)
  suspect   : b.suspect = ps.any (·.suspect)
  cMin      : b.cMin = (ps.filterMap fun q => clearance q.r env).min?
  flagged   : b.Flagged warn
  unpaired  : b.unpaired = false
  contested : b.contested = false
  ceded     : b.ceded = false

section
variable {bin warn : Nat} {env : Option Nat} {p q : PointRecord} {ps : List PointRecord} {b : BinRecord}

theorem lastPoints_concat (ps : List PointRecord) (q : PointRecord) :
    lastPoints (ps ++ [q]) = lastPoints ps ++ if q.role = .last then [q] else [] := by
  unfold lastPoints
  rw [List.filter_append]
  by_cases h : q.role = .last <;> simp [h]

/-- The best quality after a further point (R83). -/
theorem Gathers.bestAfter (h : Gathers bin warn env p ps b) (q : PointRecord) :
    IsBest (b.bestAfter q.role q.q) (if lastPoints (ps ++ [q]) = [] then p :: (ps ++ [q]) else lastPoints (ps ++ [q])) := by
  have hbest := h.qBest
  have hzero : b.nLast = 0 ↔ lastPoints ps = [] := by rw [h.nLast, List.length_eq_zero_iff]
  rw [lastPoints_concat]
  unfold BinRecord.bestAfter
  by_cases hnone : lastPoints ps = []
  · rw [if_pos hnone] at hbest
    cases q.role with
    | last => simpa [hzero, hnone] using isBest_singleton q
    | firstOnly => simpa [hzero, hnone] using hbest.concat q
  · rw [if_neg hnone] at hbest
    cases q.role with
    | last => simpa [hzero, hnone] using hbest.concat q
    | firstOnly => simpa [hzero, hnone] using hbest

theorem gathers_fresh (bin warn : Nat) (env : Option Nat) (p : PointRecord) : Gathers bin warn env p [] (BinRecord.fresh bin p.q) :=
  ⟨rfl, rfl, rfl, isBest_singleton p, rfl, rfl, ⟨rfl, rfl⟩, rfl, rfl, rfl⟩

/-- The lowest clearance after a further point (R81). -/
theorem Gathers.lowestAfter (h : Gathers bin warn env p ps b) (q : PointRecord) :
    (b.contribute warn (clearance q.r env) q).cMin = ((ps ++ [q]).filterMap fun q => clearance q.r env).min? := by
  rw [BinRecord.contribute_eq, BinRecord.takeClearance_cMin, List.filterMap_append, List.filterMap_cons, List.filterMap_nil]
  have hcMin : (b.count q).cMin = _ := h.cMin
  rw [hcMin]
  cases clearance q.r env with
  | none => simp
  | some c => exact (min?_concat _ c).symm

/-- A further point. -/
theorem Gathers.contribute (h : Gathers bin warn env p ps b) (q : PointRecord) :
    Gathers bin warn env p (ps ++ [q]) (b.contribute warn (clearance q.r env) q) := by
  have hframe := b.contribute_frame warn (clearance q.r env) q
  have hlow := h.lowestAfter q
  have hflagged : (b.contribute warn (clearance q.r env) q).Flagged warn := by
    rw [BinRecord.contribute_eq]
    exact BinRecord.Flagged.takeClearance h.flagged
  generalize b.contribute warn (clearance q.r env) q = b' at *
  have hbest := h.bestAfter q
  refine ⟨?_, ?_, ?_, ?_, ?_, hlow, hflagged, ?_, ?_, ?_⟩
  · rw [hframe]
    exact h.bin
  · rw [hframe, lastPoints_concat]
    dsimp only [BinRecord.count]
    rw [h.nLast]
    split <;> simp
  · rw [hframe, lastPoints_concat]
    dsimp only [BinRecord.count]
    rw [h.rSum]
    split <;> simp
  · rw [hframe]
    exact hbest
  · rw [hframe, List.any_append]
    dsimp only [BinRecord.count]
    rw [h.suspect]
    simp
  · rw [hframe]
    exact h.unpaired
  · rw [hframe]
    exact h.contested
  · rw [hframe]
    exact h.ceded

/-- Any further points, in any order. -/
theorem Gathers.foldl (h : Gathers bin warn env p ps b) (qs : List PointRecord) :
    Gathers bin warn env p (ps ++ qs) (qs.foldl (fun b q => b.contribute warn (clearance q.r env) q) b) := by
  induction qs generalizing ps b with
  | nil => rwa [List.append_nil]
  | cons q qs ih =>
    rw [← List.singleton_append, ← List.append_assoc]
    exact ih (h.contribute q)

/-- The best among the judged points, the creating point among them once. -/
theorem Gathers.best (h : Gathers bin warn env p (p :: ps) b) :
    IsBest b.qBest (if lastPoints (p :: ps) = [] then p :: ps else lastPoints (p :: ps)) := by
  obtain ⟨⟨q, hq, heq⟩, hle⟩ := h.qBest
  split at hq
  next hnone =>
    simp only [if_pos hnone] at hle ⊢
    exact ⟨⟨q, List.mem_of_mem_cons_of_mem hq List.mem_cons_self, heq⟩, fun x hx => hle x (List.mem_cons_of_mem _ hx)⟩
  next hsome =>
    simp only [if_neg hsome] at hle ⊢
    exact ⟨⟨q, hq, heq⟩, hle⟩

/-- Without an envelope radius there is no clearance, and no flag. -/
theorem Gathers.absent (h : Gathers bin warn none p ps b) : b.cMin = none ∧ b.warn = false ∧ b.intrusion = false := by
  have hnone : b.cMin = none := by
    rw [h.cMin, List.min?_eq_none_iff, List.filterMap_eq_nil_iff]
    exact fun _ _ => rfl
  obtain ⟨hwarn, hintrusion⟩ := h.flagged
  rw [hnone] at hwarn hintrusion
  exact ⟨hnone, hwarn, hintrusion⟩

/-- With an envelope radius, c_min is the lowest of the points' clearances, and sets the flags. -/
theorem Gathers.present {e : Nat} (h : Gathers bin warn (some e) p (p :: ps) b) :
    ∃ c : Int, b.cMin = some c ∧ b.warn = decide (c < (warn : Int)) ∧ b.intrusion = decide (c < 0)
      ∧ (∃ q ∈ p :: ps, clearance q.r (some e) = some c) ∧ ∀ q ∈ p :: ps, ∀ x, clearance q.r (some e) = some x → c ≤ x := by
  have hlow := h.cMin
  obtain ⟨hwarn, hintrusion⟩ := h.flagged
  cases hc : b.cMin with
  | none =>
    rw [hc, eq_comm, List.min?_eq_none_iff, List.filterMap_eq_nil_iff] at hlow
    exact absurd (hlow p List.mem_cons_self) (by rw [clearance_some]; exact Option.some_ne_none _)
  | some c =>
    rw [hc] at hwarn hintrusion
    rw [hc, eq_comm, List.min?_eq_some_iff] at hlow
    obtain ⟨hmem, hle⟩ := hlow
    exact ⟨c, rfl, hwarn, hintrusion, List.mem_filterMap.1 hmem, fun q hq x hx => hle x (List.mem_filterMap.2 ⟨q, hq, hx⟩)⟩

end

/-! ### The placing of a point (R79) -/

section
variable {bin warn : Nat} {c : Option Int} {p : PointRecord} {bins : List BinRecord}

/-- The records of the other bins are as they were. -/
theorem mem_placeInBins_of_ne {x : BinRecord} (hx : x.bin ≠ bin) : x ∈ placeInBins bin warn c p bins ↔ x ∈ bins := by
  have hne {y : BinRecord} (hy : y.bin = bin) : x ≠ y := fun e => hx (e ▸ hy)
  have hcontribute {y : BinRecord} (hy : y.bin = bin) : x ≠ y.contribute warn c p := hne ((BinRecord.contribute_bin ..).trans hy)
  have hfresh : x ≠ (BinRecord.fresh bin p.q).contribute warn c p := hcontribute rfl
  induction bins with
  | nil => simp [placeInBins, hfresh]
  | cons y rest ih =>
    unfold placeInBins
    split_ifs with hy hlt
    · simp [hcontribute hy, hne hy]
    · simp [hfresh]
    · simp [ih]

/-- The record of the bin takes the point. -/
theorem contribute_mem_placeInBins {x : BinRecord} (hsorted : bins.Pairwise fun x y => x.bin < y.bin) (hx : x ∈ bins) (hbin : x.bin = bin) :
    x.contribute warn c p ∈ placeInBins bin warn c p bins := by
  induction bins with
  | nil => exact absurd hx List.not_mem_nil
  | cons y rest ih =>
    obtain ⟨hbefore, hrest⟩ := List.pairwise_cons.1 hsorted
    unfold placeInBins
    obtain rfl | hx := List.mem_cons.1 hx
    · rw [if_pos hbin]
      exact List.mem_cons_self
    · have hlt := hbefore x hx
      rw [if_neg (by omega), if_neg (by omega)]
      exact List.mem_cons_of_mem _ (ih hrest hx)

/-- A bin that has no record gets one. -/
theorem fresh_mem_placeInBins (hnone : ∀ x ∈ bins, x.bin ≠ bin) :
    (BinRecord.fresh bin p.q).contribute warn c p ∈ placeInBins bin warn c p bins := by
  induction bins with
  | nil => exact List.mem_singleton_self _
  | cons y rest ih =>
    obtain ⟨hy, hrest⟩ := List.forall_mem_cons.1 hnone
    unfold placeInBins
    rw [if_neg hy]
    split
    · exact List.mem_cons_self
    · exact List.mem_cons_of_mem _ (ih hrest)

end

/-- Settles O33: a fresh record gathers what its points say, point by point. -/
theorem binRecordGathersItsPoints : Obligations.BinRecordGathersItsPoints := by
  refine ⟨fun bin warn env p ps => ?_, fun bin warn c p bins hsorted =>
    ⟨placeInBins_ascend bin warn c p hsorted, fun _ => mem_placeInBins_of_ne, fun _ => contribute_mem_placeInBins hsorted,
      fresh_mem_placeInBins⟩⟩
  have h := (gathers_fresh bin warn env p).foldl (p :: ps)
  obtain ⟨hbest, hle⟩ := h.best
  refine ⟨h.bin, h.nLast, h.rSum, hbest, hle, h.suspect, ?_, ?_, h.unpaired, h.contested, h.ceded⟩
  · rintro rfl
    exact h.absent
  · intro henv
    obtain ⟨e, rfl⟩ := Option.ne_none_iff_exists'.1 henv
    exact h.present

end Sys2Proof.Machine

/-! Every point but the origin lies in exactly one bin (R73): a quarter turn of the point moves its bin by 256, and along the first quarter the rays pass a point of that quarter one after another. -/

namespace Sys2Proof.Machine

/-! ### A point beside a ray (R71, R72) -/

/-- How far a point lies to the left of a ray, in the ray's length. -/
def across (x y : Int) (b : Nat) : Int := cosineTable b * y - sineTable b * x

/-- How far a point lies along a ray, in the ray's length. -/
def along (x y : Int) (b : Nat) : Int := cosineTable b * x + sineTable b * y

theorem inBin_iff {x y : Int} {b : Nat} : inBin x y b = true ↔ 0 ≤ across x y b ∧ across x y (b + 1) < 0 ∧ 0 < along x y b := by
  simp only [inBin, across, along, Bool.and_eq_true, decide_eq_true_eq, and_assoc]

/-! ### Turns -/

theorem sineTable_quarter (b : Nat) : sineTable (b + 256) = cosineTable b := rfl

theorem cosineTable_quarter (b : Nat) : cosineTable (b + 256) = -sineTable b := sineTable_half b

theorem across_quarter (x y : Int) (b : Nat) : across x y (b + 256) = across y (-x) b := by
  unfold across
  rw [sineTable_quarter, cosineTable_quarter]
  ring

theorem along_quarter (x y : Int) (b : Nat) : along x y (b + 256) = along y (-x) b := by
  unfold along
  rw [sineTable_quarter, cosineTable_quarter]
  ring

/-- A quarter on, a bin holds the points a quarter turn on. -/
theorem inBin_quarter (x y : Int) (b : Nat) : inBin x y (b + 256) = inBin y (-x) b := by
  rw [Bool.eq_iff_iff, inBin_iff, inBin_iff, across_quarter, along_quarter, Nat.add_right_comm, across_quarter]

theorem inBin_turn (x y : Int) (b : Nat) : inBin x y (b + 1024) = inBin x y b := by
  rw [show b + 1024 = b + 256 + 256 + 256 + 256 from rfl, inBin_quarter, inBin_quarter, inBin_quarter, inBin_quarter, neg_neg, neg_neg]

theorem inBin_mod (x y : Int) (b : Nat) : inBin x y (b % 1024) = inBin x y b := by
  induction b using Nat.strong_induction_on with
  | _ b ih =>
    obtain hb | hb := Nat.lt_or_ge b 1024
    · rw [Nat.mod_eq_of_lt hb]
    · obtain ⟨c, rfl⟩ := Nat.exists_eq_add_of_le' hb
      rw [Nat.add_mod_right, inBin_turn, ih c (by omega)]

/-! ### The rays of the first quarter -/

section
variable {b c : Nat} {x y : Int}

theorem sineTable_le (hbc : b ≤ c) (hc : c ≤ 256) : sineTable b ≤ sineTable c := by
  induction c, hbc using Nat.le_induction with
  | base => exact le_rfl
  | succ c _ ih => exact (ih (by omega)).trans (sineTable_lt_succ (by omega)).le

theorem cosineTable_first (hb : b ≤ 256) : cosineTable b = sineTable (256 - b) := by
  unfold cosineTable
  rw [← sineTable_mirror (by omega), show 512 - (b + 256) = 256 - b by omega]

theorem cosineTable_le (hbc : b ≤ c) (hc : c ≤ 256) : cosineTable c ≤ cosineTable b := by
  rw [cosineTable_first hc, cosineTable_first (hbc.trans hc)]
  exact sineTable_le (by omega) (by omega)

theorem sineTable_nonneg (hb : b ≤ 256) : 0 ≤ sineTable b := by
  have hzero : sineTable 0 = 0 := by decide
  exact hzero ▸ sineTable_le (Nat.zero_le b) hb

theorem cosineTable_nonneg (hb : b ≤ 256) : 0 ≤ cosineTable b := by
  rw [cosineTable_first hb]
  exact sineTable_nonneg (Nat.sub_le 256 b)

theorem cosineTable_pos (hb : b < 256) : 0 < cosineTable b :=
  (show (0 : Int) < cosineTable 255 by decide).trans_le (cosineTable_le (by omega) (by omega))

/-- The rays pass a point of the first quarter one after another. -/
theorem across_le (hx : 0 ≤ x) (hy : 0 ≤ y) (hbc : b ≤ c) (hc : c ≤ 256) : across x y c ≤ across x y b := by
  have hsine := mul_le_mul_of_nonneg_right (sineTable_le hbc hc) hx
  have hcosine := mul_le_mul_of_nonneg_right (cosineTable_le hbc hc) hy
  unfold across
  omega

theorem across_succ_lt (hx : 0 < x) (hy : 0 ≤ y) (hb : b < 256) : across x y (b + 1) < across x y b := by
  have hsine := mul_lt_mul_of_pos_right (sineTable_lt_succ hb) hx
  have hcosine := mul_le_mul_of_nonneg_right (cosineTable_le (show b ≤ b + 1 by omega) hb) hy
  unfold across
  omega

theorem along_pos (hx : 0 < x) (hy : 0 ≤ y) (hb : b < 256) : 0 < along x y b :=
  add_pos_of_pos_of_nonneg (mul_pos (cosineTable_pos hb) hx) (mul_nonneg (sineTable_nonneg hb.le) hy)

theorem rayLength_pos (hb : b < 256) : 0 < cosineTable b * cosineTable b + sineTable b * sineTable b :=
  add_pos_of_pos_of_nonneg (mul_pos (cosineTable_pos hb) (cosineTable_pos hb)) (mul_self_nonneg _)

/-- A point left of a ray of the first quarter, and ahead along it, is not below the axis. -/
theorem nonneg_of_along_pos (hb : b < 256) (hleft : 0 ≤ across x y b) (halong : 0 < along x y b) : 0 ≤ y := by
  have hsum : (cosineTable b * cosineTable b + sineTable b * sineTable b) * y
      = cosineTable b * across x y b + sineTable b * along x y b := by
    unfold across along
    ring
  have hprod := add_nonneg (mul_nonneg (cosineTable_pos hb).le hleft) (mul_nonneg (sineTable_nonneg hb.le) halong.le)
  exact (mul_nonneg_iff_of_pos_left (rayLength_pos hb)).1 (hprod.trans_eq hsum.symm)

/-- A point on a ray of the first quarter lies in the first quarter. -/
theorem pos_of_across_eq_zero (hb : b < 256) (hray : across x y b = 0) (halong : 0 < along x y b) : 0 < x := by
  have hsum : (cosineTable b * cosineTable b + sineTable b * sineTable b) * x
      = cosineTable b * along x y b - sineTable b * across x y b := by
    unfold across along
    ring
  rw [hray, mul_zero, sub_zero] at hsum
  exact (mul_pos_iff_of_pos_left (rayLength_pos hb)).1 ((mul_pos (cosineTable_pos hb) halong).trans_eq hsum.symm)

/-- A point right of a ray of the first quarter, and not below the axis, is right of the origin. -/
theorem pos_of_across_neg (hb : b ≤ 256) (hright : across x y b < 0) (hy : 0 ≤ y) : 0 < x := by
  by_contra hx
  have hcosine := mul_nonneg (cosineTable_nonneg hb) hy
  have hsine := mul_nonpos_of_nonneg_of_nonpos (sineTable_nonneg hb) (not_lt.1 hx)
  unfold across at hright
  omega

/-- The bins 0 to 255 hold points of the first quarter only. -/
theorem first_of_inBin (hb : b < 256) (h : inBin x y b = true) : 0 < x ∧ 0 ≤ y := by
  obtain ⟨hleft, hright, halong⟩ := inBin_iff.1 h
  have hy := nonneg_of_along_pos hb hleft halong
  exact ⟨pos_of_across_neg hb hright hy, hy⟩

/-- A point of the first quarter between two rays that follow one another is in the bin between them. -/
theorem inBin_first_iff (hx : 0 < x) (hy : 0 ≤ y) (hb : b < 256) : inBin x y b = true ↔ 0 ≤ across x y b ∧ across x y (b + 1) < 0 := by
  rw [inBin_iff, and_iff_left (along_pos hx hy hb)]

/-- A point on a ray lies in the bin above it. -/
theorem inBin_of_ray (hray : across x y b = 0) (halong : 0 < along x y b) : inBin x y b = true := by
  induction b using Nat.strong_induction_on generalizing x y with
  | _ b ih =>
    obtain hb | hb := Nat.lt_or_ge b 256
    · have hx := pos_of_across_eq_zero hb hray halong
      have hy := nonneg_of_along_pos hb hray.ge halong
      exact (inBin_first_iff hx hy hb).2 ⟨hray.ge, hray ▸ across_succ_lt hx hy hb⟩
    · obtain ⟨c, rfl⟩ := Nat.exists_eq_add_of_le' hb
      rw [across_quarter] at hray
      rw [along_quarter] at halong
      rw [inBin_quarter]
      exact ih c (by omega) hray halong

end

/-! ### The one bin of a point (R73) -/

/-- A point's one bin. -/
def OnlyBin (x y : Int) (b : Nat) : Prop := b < 1024 ∧ ∀ c : Nat, c < 1024 → (inBin x y c = true ↔ c = b)

/-- A sequence that begins at or above 0 and comes below it does so at some step. -/
theorem exists_sign_change {f : Nat → Int} {n : Nat} (hfirst : 0 ≤ f 0) (hlast : f n < 0) : ∃ k < n, 0 ≤ f k ∧ f (k + 1) < 0 := by
  induction n with
  | zero => omega
  | succ n ih =>
    obtain hn | hn := lt_or_ge (f n) 0
    · obtain ⟨k, hk, hchange⟩ := ih hn
      exact ⟨k, by omega, hchange⟩
    · exact ⟨n, by omega, hn, hlast⟩

section
variable {x y : Int} {b c : Nat}

/-- A point of the first quarter lies in one of the bins 0 to 255. -/
theorem exists_inBin_first (hx : 0 < x) (hy : 0 ≤ y) : ∃ b < 256, inBin x y b = true := by
  have hfirst : across x y 0 = 32767 * y := by
    rw [across, show cosineTable 0 = 32767 by decide, show sineTable 0 = 0 by decide]
    omega
  have hlast : across x y 256 = -32767 * x := by
    rw [across, show cosineTable 256 = 0 by decide, show sineTable 256 = 32767 by decide]
    omega
  obtain ⟨b, hb, hchange⟩ := exists_sign_change (f := across x y) (n := 256) (by omega) (by omega)
  exact ⟨b, hb, (inBin_first_iff hx hy hb).2 hchange⟩

/-- No two of the bins 0 to 255 share a point: past the upper ray of one, the point is not left of a ray. -/
theorem inBin_first_le (hb : b < 256) (hc : c < 256) (h : inBin x y b = true) (h' : inBin x y c = true) : c ≤ b := by
  obtain ⟨hx, hy⟩ := first_of_inBin hb h
  obtain ⟨-, hright, -⟩ := inBin_iff.1 h
  obtain ⟨hleft, -, -⟩ := inBin_iff.1 h'
  by_contra hlt
  have hpassed := across_le hx.le hy (show b + 1 ≤ c by omega) hc.le
  omega

/-- The bins of the other quarters hold no point of the first. -/
theorem lt_of_inBin_first (hx : 0 < x) (hy : 0 ≤ y) (hc : c < 1024) (h : inBin x y c = true) : c < 256 := by
  by_contra hge
  obtain ⟨d, rfl⟩ := Nat.exists_eq_add_of_le' (not_lt.1 hge)
  rw [inBin_quarter] at h
  obtain hd | hd := Nat.lt_or_ge d 256
  · obtain ⟨-, hneg⟩ := first_of_inBin hd h
    omega
  obtain ⟨e, rfl⟩ := Nat.exists_eq_add_of_le' hd
  rw [inBin_quarter] at h
  obtain he | he := Nat.lt_or_ge e 256
  · obtain ⟨hneg, -⟩ := first_of_inBin he h
    omega
  obtain ⟨f, rfl⟩ := Nat.exists_eq_add_of_le' he
  rw [inBin_quarter] at h
  obtain ⟨hneg, -⟩ := first_of_inBin (by omega) h
  omega

theorem onlyBin_first (hx : 0 < x) (hy : 0 ≤ y) : ∃ b, OnlyBin x y b := by
  obtain ⟨b, hb, h⟩ := exists_inBin_first hx hy
  refine ⟨b, by omega, fun c hc => ⟨fun h' => ?_, fun e => e ▸ h⟩⟩
  have hc' := lt_of_inBin_first hx hy hc h'
  exact le_antisymm (inBin_first_le hb hc' h h') (inBin_first_le hc' hb h' h)

/-- A quarter turn on, a point has one bin if it had one. -/
theorem OnlyBin.quarter (h : OnlyBin y (-x) b) : OnlyBin x y ((b + 256) % 1024) := by
  obtain ⟨hb, honly⟩ := h
  refine ⟨Nat.mod_lt _ (by omega), fun c hc => ?_⟩
  have hback : inBin x y c = inBin y (-x) ((c + 768) % 1024) := by
    rw [inBin_mod, ← inBin_quarter, Nat.add_assoc, inBin_turn]
  rw [hback, honly _ (Nat.mod_lt _ (by omega))]
  omega

theorem exists_onlyBin_of_quarter (h : ∃ b, OnlyBin y (-x) b) : ∃ b, OnlyBin x y b :=
  h.imp' (fun b => (b + 256) % 1024) fun _ => OnlyBin.quarter

/-- Every point but the origin has one bin: some quarter turns bring it into the first quarter. -/
theorem exists_onlyBin (h : ¬ (x = 0 ∧ y = 0)) : ∃ b, OnlyBin x y b := by
  by_cases hfirst : 0 < x ∧ 0 ≤ y
  · exact onlyBin_first hfirst.1 hfirst.2
  by_cases hsecond : 0 < y ∧ x ≤ 0
  · exact exists_onlyBin_of_quarter (onlyBin_first hsecond.1 (by omega))
  by_cases hthird : x < 0 ∧ y ≤ 0
  · exact exists_onlyBin_of_quarter (exists_onlyBin_of_quarter (onlyBin_first (by omega) (by omega)))
  · refine exists_onlyBin_of_quarter (exists_onlyBin_of_quarter (exists_onlyBin_of_quarter (onlyBin_first ?_ ?_))) <;> omega

/-- The bin found is one whose tests the point passes. -/
theorem OnlyBin.binOf_eq (h : OnlyBin x y b) : binOf x y = some b := by
  obtain ⟨hb, honly⟩ := h
  obtain ⟨c, hc⟩ := Option.isSome_iff_exists.1 (List.find?_isSome (p := inBin x y).2 ⟨b, List.mem_range.2 hb, (honly b hb).2 rfl⟩)
  have hcb := (honly c (List.mem_range.1 (List.mem_of_find?_eq_some hc))).1 (List.find?_some hc)
  exact hcb ▸ hc

theorem inBin_origin (c : Nat) : inBin 0 0 c = false := by
  simp [inBin]

theorem binOf_of_ray (hb : b < 1024) (hray : across x y b = 0) (halong : 0 < along x y b) : binOf x y = some b := by
  have horigin : ¬ (x = 0 ∧ y = 0) := by
    rintro ⟨rfl, rfl⟩
    simp [along] at halong
  obtain ⟨c, h⟩ := exists_onlyBin horigin
  rw [h.binOf_eq, (h.2 b hb).1 (inBin_of_ray hray halong)]

/-- A point ahead on a ray whose two table entries are known. -/
theorem binOf_of_axis {u v : Int} (hb : b < 1024) (hcosine : cosineTable b = u) (hsine : sineTable b = v) (hray : u * y - v * x = 0)
    (halong : 0 < u * x + v * y) : binOf x y = some b :=
  binOf_of_ray hb (by rw [across, hcosine, hsine, hray]) (by rwa [along, hcosine, hsine])

end

/-- Settles O30: quarter turns bring every point into the first quarter, where the rays pass it one after another. -/
theorem exactlyOneBin : Obligations.ExactlyOneBin := by
  refine ⟨fun x y horigin => ?_, inBin_origin, ?_, fun _ _ _ => binOf_of_ray, fun n hn => ⟨?_, ?_, ?_, ?_⟩⟩
  · obtain ⟨b, h⟩ := exists_onlyBin horigin
    exact ⟨b, h.1, h.binOf_eq, h.2⟩
  · exact List.find?_eq_none.2 fun c _ => by simp [inBin_origin]
  · exact binOf_of_axis (u := 32767) (v := 0) (by decide) (by decide) (by decide) (by omega) (by omega)
  · exact binOf_of_axis (u := 0) (v := 32767) (by decide) (by decide) (by decide) (by omega) (by omega)
  · exact binOf_of_axis (u := -32767) (v := 0) (by decide) (by decide) (by decide) (by omega) (by omega)
  · exact binOf_of_axis (u := 0) (v := -32767) (by decide) (by decide) (by decide) (by omega) (by omega)

end Sys2Proof.Machine

/-! DRAIN: the marking of the records, and the drain that finds none. -/

namespace Sys2Proof.Machine

/-! ### The store beside the line -/

section
variable (s : State) (f : Store → Store)

/-! What the transmit groups do neither reads nor changes the store. -/

theorem offer_onStore : offer (s.onStore f) = (offer s).onStore f := by
  unfold offer
  simp only [State.onStore_line, State.onStore_ctrl, apply_ite (State.onStore f)]
  congr 1
  cases s.ctrl.setup.groupOrder.find? fun g => !(s.line.group g).isEmpty with
  | none => rfl
  | some g => dsimp only; cases s.line.group g <;> rfl

theorem enqueue_onStore (g : TxGroup) (t : Telegram) : enqueue g t (s.onStore f) = (enqueue g t s).onStore f := by
  unfold enqueue
  rw [apply_ite (State.onStore f), ← offer_onStore]
  rfl
end

/-! ### DRAIN -/

section
variable {s : State} {x : Received} {rest : List Received}

theorem exec_drain (hl : s.resetAsserted = false) (hq : s.line.queue = x :: rest) (hk : x.kind = .drain) (hp : x.payload = [])
    (hr : s.ctrl.station = .run ∨ s.ctrl.station = .halted) : exec .drain s = .next (handleDrain x (s.withQueue rest)) := by
  have ha : s.ctrl.station.accepts .drain = true := by obtain h | h := hr <;> rw [h] <;> rfl
  show live (takeOldest (Received.isKind .drain) handleDrain) s = _
  rw [live_eq s _ hl, takeOldest_handled s _ _ x rest hq (decide_eq_true hk) (by rwa [hk]) (by rw [hk, hp]; rfl)]

/-- With records present, a drain marks them all, and the newest is its target (R105). -/
theorem handleDrain_marks {rs : List SectionRecord} {r : SectionRecord} (h : s.store.records = rs ++ [r]) :
    handleDrain x s = { s with store := { s.store with
      records := s.store.records.map fun q => { q with summary := { q.summary with drainMark := true } }
      drainRequester := some x.sender, drainTarget := some r.number, drainPending := true } } := by
  have hlast : (s.store.records.map (SectionRecord.onSummary fun m => { m with drainMark := true })).getLast?
      = some (r.onSummary fun m => { m with drainMark := true }) := by simp [h]
  simp only [handleDrain, State.onStore_store, hlast]
  rfl

/-- The store once no drain is pending any more. -/
def Store.undrained (st : Store) : Store := { st with drainPending := false, drainTarget := none, drainRequester := none }

/-- A drain that completes produces its DRAINED (R106). -/
theorem completeDrain_produces {requester : Nat} (hq : s.store.drainRequester = some requester) :
    completeDrain s = (produceA ⟨requester, .drained s.store.drainTarget⟩ s).onStore Store.undrained := by
  simp only [completeDrain, hq]
  rfl

theorem produceA_enters (t : Telegram) (h : s.line.groupA.length < 4) : produceA t s = enqueue .a t s :=
  if_pos ((s.hasRoom_iff .a).2 h)

theorem enqueue_store (g : TxGroup) (t : Telegram) (s : State) : (enqueue g t s).store = s.store := by
  obtain ⟨y, hy⟩ := enqueue_eq s g t
  rw [hy]; rfl

/-- With no record present and no drain pending, a drain completes at once, with no target (R105). -/
theorem handleDrain_none (h : s.store.records = []) (hp : s.store.drainPending = false) :
    handleDrain x s = completeDrain (s.onStore fun st => { st with drainRequester := some x.sender, drainTarget := none }) := by
  have hrec : s.store = { s.store with records := [] } := by rw [← h]
  simp only [handleDrain, State.onStore_store, h, List.map_nil, List.getLast?_nil, hp]
  rw [State.onStore, State.onStore, State.onStore, hrec]
  rfl

theorem handleDrain_queued (h : s.store.records = []) (hp : s.store.drainPending = false) (hroom : s.line.groupA.length < 4) :
    handleDrain x s = { enqueue .a ⟨x.sender, .drained none⟩ s with
      store := { s.store with drainPending := false, drainTarget := none, drainRequester := none } } := by
  have hproduces := completeDrain_produces (requester := x.sender)
    (s := s.onStore fun st => { st with drainRequester := some x.sender, drainTarget := none }) rfl
  rw [handleDrain_none h hp, hproduces, produceA_enters _ (by exact hroom), enqueue_onStore, ← enqueue_store .a _ s]
  rfl
end

/-- Settles O35: the records are marked for their newest, or, with none, the DRAINED is queued. -/
theorem drainHandled : Obligations.DrainHandled := by
  intro x rest s hl hq hk hp hr
  rw [exec_drain hl hq hk hp hr]
  refine ⟨fun rs r hrec => congrArg _ (handleDrain_marks (s := s.withQueue rest) hrec), fun hrec hnone hroom => ?_⟩
  exact congrArg _ (handleDrain_queued (s := s.withQueue rest) hrec hnone hroom)

end Sys2Proof.Machine

/-! Stitch windows: what a closing leaves of a record, and how a trigger counts towards a window. -/

namespace Sys2Proof.Machine

/-! ### The closing of a window (R99, R129) -/

/-- A bin record made UNPAIRED under a condition, unless it is CEDED or CONTESTED (R129). -/
def BinRecord.unpairedIf (c : Bool) (b : BinRecord) : BinRecord :=
  if c && !b.ceded && !b.contested then { b with unpaired := true } else b

theorem BinRecord.unpairedIf_true (b : BinRecord) : b.unpairedIf true = b.markUnpaired := by
  unfold BinRecord.unpairedIf BinRecord.markUnpaired
  cases b.ceded <;> cases b.contested <;> rfl

theorem BinRecord.unpairedIf_bin (c : Bool) (b : BinRecord) : (b.unpairedIf c).bin = b.bin := by
  unfold BinRecord.unpairedIf; split <;> rfl

/-- Made UNPAIRED twice, or once. -/
theorem BinRecord.unpairedIf_unpairedIf (c d : Bool) (b : BinRecord) : (b.unpairedIf c).unpairedIf d = b.unpairedIf (c || d) := by
  obtain ⟨_, _, _, _, _, _, _, _, unpaired, contested, ceded⟩ := b
  cases c <;> cases ceded <;> cases contested <;> simp [BinRecord.unpairedIf]

/-- The bin lies in the zone of a side that is still AWAITED. -/
def SectionRecord.awaitedAt (u : Setup) (sd : Side) (r : SectionRecord) (bin : Nat) : Bool :=
  decide (r.side sd = .awaited) && u.inZone sd bin

/-- A side that closes is no longer AWAITED, and the bins of its zone that were awaited become UNPAIRED. -/
theorem SectionRecord.closeSide_awaited (u : Setup) (sd : Side) (r : SectionRecord) : r.closeSide u sd =
    ({ r with bins := r.bins.map fun b => b.unpairedIf (r.awaitedAt u sd b.bin) } : SectionRecord).setSide sd
      (if r.side sd = .awaited then .closed else r.side sd) := by
  unfold SectionRecord.closeSide
  by_cases h : r.side sd = .awaited
  · have hbins : (r.bins.map fun b => b.unpairedIf (r.awaitedAt u sd b.bin))
        = r.bins.map fun b => if u.inZone sd b.bin then b.markUnpaired else b := by
      refine List.map_congr_left fun b _ => ?_
      rw [SectionRecord.awaitedAt, decide_eq_true h, Bool.true_and]
      cases u.inZone sd b.bin
      · rfl
      · exact b.unpairedIf_true
    rw [if_pos h, if_pos h, hbins]
  · have hbins : (r.bins.map fun b => b.unpairedIf (r.awaitedAt u sd b.bin)) = r.bins := by
      refine (List.map_congr_left fun b _ => ?_).trans (List.map_id _)
      rw [SectionRecord.awaitedAt, decide_eq_false h]
      rfl
    rw [if_neg h, if_neg h, hbins]
    cases sd <;> rfl

/-- A record whose window closes: READY, no side AWAITED, and the bins that were awaited UNPAIRED. -/
theorem SectionRecord.close_awaited (u : Setup) (r : SectionRecord) : r.close u = { r with
    state := .ready, windowTimer := false
    leftSide := if r.leftSide = .awaited then .closed else r.leftSide
    rightSide := if r.rightSide = .awaited then .closed else r.rightSide
    bins := r.bins.map fun b => b.unpairedIf (r.awaitedAt u .left b.bin || r.awaitedAt u .right b.bin) } := by
  simp only [SectionRecord.close, SectionRecord.closeSide_awaited, SectionRecord.setSide, SectionRecord.side, List.map_map]
  congr 1
  refine List.map_congr_left fun b _ => ?_
  simp only [Function.comp, BinRecord.unpairedIf_bin, BinRecord.unpairedIf_unpairedIf]
  rfl

/-! ### Triggers counted (R97) -/

/-- One trigger more, up to the window. -/
theorem countUpTo_eq {n window : Nat} (h : n ≤ window) : (if n < window then n + 1 else n) = min window (n + 1) := by
  split <;> omega

section
variable {u : Setup} {window : Nat} {r : SectionRecord}

theorem SectionRecord.countTrigger_of_sweeping (hr : r.state = .sweeping) (h : r.windowCount ≤ window) :
    r.countTrigger u window = { r with windowCount := min window (r.windowCount + 1) } := by
  simp only [SectionRecord.countTrigger, hr, countUpTo_eq h]

theorem SectionRecord.countTrigger_of_held (hr : r.state = .held) (h : r.windowCount ≤ window) :
    r.countTrigger u window =
      if window ≤ r.windowCount + 1 then ({ r with windowCount := min window (r.windowCount + 1) } : SectionRecord).close u
      else { r with windowCount := r.windowCount + 1 } := by
  simp only [SectionRecord.countTrigger, hr, countUpTo_eq h]
  by_cases hc : window ≤ r.windowCount + 1
  · rw [if_pos hc, if_pos (by omega)]
  · rw [if_neg hc, if_neg (by omega), Nat.min_eq_right (by omega)]

theorem SectionRecord.countTrigger_of_closed (hs : r.state ≠ .sweeping) (hh : r.state ≠ .held) : r.countTrigger u window = r := by
  unfold SectionRecord.countTrigger
  cases h : r.state
  case sweeping => exact absurd h hs
  case held => exact absurd h hh
  case ready => rfl
  case sending => rfl
end

/-! ### WINDOW_TIMER_EXPIRY (R98) -/

theorem windowTimerExpired_closes {n : Nat} {s : State} {r : SectionRecord} (hf : s.store.find n = some r) (hr : r.state = .held)
    (ht : r.windowTimer = true) : windowTimerExpired n s =
      startReport (s.onStore fun st => st.modify n (SectionRecord.close s.ctrl.setup)) := by
  simp only [windowTimerExpired, hf, hr, ht, and_self, if_true]

/-- Settles O36: the timer closes the window of its record, and a trigger that of every HELD record whose count reaches it. -/
theorem windowCloses : Obligations.WindowCloses := by
  refine ⟨fun n s r hl hf hr ht => ?_, fun u r => r.close_awaited u, fun u window r h => ?_, fun s window hw => ?_⟩
  · show live (windowTimerExpired n) s = _
    rw [live_eq s _ hl, windowTimerExpired_closes hf hr ht]
    rfl
  · by_cases hs : r.state = .sweeping
    · rw [if_pos hs, SectionRecord.countTrigger_of_sweeping hs h]
    by_cases hh : r.state = .held
    · rw [if_neg hs, if_pos hh, SectionRecord.countTrigger_of_held hh h]
    · rw [if_neg hs, if_neg hh, SectionRecord.countTrigger_of_closed hs hh]
  · simp only [countWindows, hw]
    rfl

end Sys2Proof.Machine

/-! EDGE: the side an edge belongs to, and what becomes of it at the record of its section. -/

namespace Sys2Proof.Machine

/-! ### The side an edge belongs to (R119) -/

section
variable {u : Setup} {n : Nat} {p : List Byte}

theorem sideOf_left (h : u.neighbour .left = some n) : u.sideOf n = some .left := if_pos h

theorem sideOf_right (hl : u.neighbour .left ≠ some n) (hr : u.neighbour .right = some n) : u.sideOf n = some .right :=
  (if_neg hl).trans (if_pos hr)

theorem sideOf_none (hl : u.neighbour .left ≠ some n) (hr : u.neighbour .right ≠ some n) : u.sideOf n = none :=
  (if_neg hl).trans (if_neg hr)

theorem edgeSideAt_left (h : byteAt p 3 % 4 = 0) : edgeSideAt p = some .left := by simp only [edgeSideAt, h]
theorem edgeSideAt_right (h : byteAt p 3 % 4 = 1) : edgeSideAt p = some .right := by simp only [edgeSideAt, h]
theorem edgeSideAt_both (h : byteAt p 3 % 4 = 2) : edgeSideAt p = some .both := by simp only [edgeSideAt, h]
theorem edgeSideAt_none (h : byteAt p 3 % 4 = 3) : edgeSideAt p = none := by simp only [edgeSideAt, h]

/-- An edge without a side, or whose sender is no neighbour, belongs to no side. -/
theorem edgeBelongs_noField (u : Setup) (n : Nat) : edgeBelongs u n none = none := by
  unfold edgeBelongs
  split <;> simp_all

theorem edgeBelongs_noSender (h : u.sideOf n = none) (field : Option EdgeSide) : edgeBelongs u n field = none := by
  simp only [edgeBelongs, h]

/-- An edge belongs to the side of its sender when it is for the side that faces it, or for both. -/
theorem edgeBelongs_side {sd : Side}
    (h : (sd = .left ∧ u.neighbour .left = some n ∧ (byteAt p 3 % 4 = 1 ∨ byteAt p 3 % 4 = 2))
      ∨ (sd = .right ∧ u.neighbour .left ≠ some n ∧ u.neighbour .right = some n ∧ (byteAt p 3 % 4 = 0 ∨ byteAt p 3 % 4 = 2))) :
    edgeBelongs u n (edgeSideAt p) = some sd := by
  obtain ⟨rfl, hleft, hcode | hcode⟩ | ⟨rfl, hleft, hright, hcode | hcode⟩ := h
  · simp only [edgeBelongs, sideOf_left hleft, edgeSideAt_right hcode]
  · simp only [edgeBelongs, sideOf_left hleft, edgeSideAt_both hcode]
  · simp only [edgeBelongs, sideOf_right hleft hright, edgeSideAt_left hcode]
  · simp only [edgeBelongs, sideOf_right hleft hright, edgeSideAt_both hcode]
end

/-! ### EDGE (R118 to R123) -/

section
variable {s : State} {x : Received} {rest : List Received}

theorem exec_edge (hl : s.resetAsserted = false) (hq : s.line.queue = x :: rest) (hk : x.kind = .edge)
    (hr : s.ctrl.station = .run ∨ s.ctrl.station = .halted) (hmin : 5 ≤ x.payload.length)
    (hlen : x.payload.length = 5 + 4 * byteAt x.payload 4) : exec .edge s = .next (handleEdge x (s.withQueue rest)) := by
  have ha : s.ctrl.station.accepts .edge = true := by obtain h | h := hr <;> rw [h] <;> rfl
  have hadmitted : lengthAdmitted .edge x.payload = true := by
    simp only [lengthAdmitted, Bool.and_eq_true, decide_eq_true_eq, beq_iff_eq]
    exact ⟨hmin, hlen⟩
  show live (takeOldest (Received.isKind .edge) handleEdge) s = _
  rw [live_eq s _ hl, takeOldest_handled s _ _ x rest hq (decide_eq_true hk) (by rwa [hk]) (by rwa [hk])]

theorem handleEdge_oversized (h : 32 < byteAt x.payload 4) : handleEdge x s = record .edgeUnmatched s := if_pos h

/-- An edge that belongs to no side is discarded. -/
theorem handleEdge_noSide (h : edgeBelongs s.ctrl.setup x.sender (edgeSideAt x.payload) = none) :
    handleEdge x s = record .edgeUnmatched s := by
  unfold handleEdge
  rw [h, ite_self]

/-- An edge of a section without a record is discarded. -/
theorem handleEdge_noRecord (h : s.store.find (word24At x.payload 0) = none) : handleEdge x s = record .edgeUnmatched s := by
  unfold handleEdge
  rw [h]
  split
  · rfl
  · split <;> rfl

theorem handleEdge_meets {sd : Side} {r : SectionRecord} (hsize : byteAt x.payload 4 ≤ 32)
    (hside : edgeBelongs s.ctrl.setup x.sender (edgeSideAt x.payload) = some sd)
    (hfind : s.store.find (word24At x.payload 0) = some r) : handleEdge x s = edgeMeets r sd (readPeerEdge x.payload) s := by
  unfold handleEdge
  rw [if_neg (show ¬ Config.edgeEntriesMax < _ from Nat.not_lt.2 hsize), hside, hfind]

variable {r : SectionRecord} {sd : Side} {e : PeerEdge}

/-- An edge that comes late, a second time, or for a side not AWAITED is discarded. -/
theorem edgeMeets_discards (h : (r.state = .ready ∨ r.state = .sending) ∨ (r.state = .sweeping ∧ (r.heldEdge sd).isSome = true)
      ∨ (r.state = .held ∧ r.side sd ≠ .awaited)) : edgeMeets r sd e s = record .edgeUnmatched s := by
  obtain (hr | hr) | ⟨hr, hheld⟩ | ⟨hr, hside⟩ := h
  · simp only [edgeMeets, hr]
  · simp only [edgeMeets, hr]
  · obtain ⟨d, hd⟩ := Option.isSome_iff_exists.1 hheld
    simp only [edgeMeets, hr, hd]
  · simp only [edgeMeets, hr, if_neg hside]

theorem edgeMeets_held (hr : r.state = .sweeping) (hnone : r.heldEdge sd = none) :
    edgeMeets r sd e s = s.onStore fun st => st.modify r.number (SectionRecord.holdEdge sd e) := by
  simp only [edgeMeets, hr, hnone]

theorem edgeMeets_applied (hr : r.state = .held) (hside : r.side sd = .awaited) :
    edgeMeets r sd e s = startReport (s.onStore fun st => st.modify r.number fun q =>
      (q.applyEdge s.ctrl.setup s.ctrl.ownNumber.toNat sd e).readyIfSettled) := by
  simp only [edgeMeets, hr, if_pos hside]
end

theorem SectionRecord.awaits_iff (r : SectionRecord) : r.awaits = true ↔ r.leftSide = .awaited ∨ r.rightSide = .awaited := by
  simp [SectionRecord.awaits]

/-- A record with no side AWAITED any more is READY, and its window stops (R96). -/
theorem SectionRecord.readyIfSettled_eq (r : SectionRecord) : r.readyIfSettled =
    if r.leftSide = .awaited ∨ r.rightSide = .awaited then r else { r with state := .ready, windowTimer := false } := by
  unfold SectionRecord.readyIfSettled
  simp only [SectionRecord.awaits_iff]

/-- Settles O39: an edge is discarded, held or applied by its size, its side, and the state of the record it meets. -/
theorem edgeHandled : Obligations.EdgeHandled := by
  intro x rest s hl hq hk hr hmin hlen u code discarded
  rw [exec_edge hl hq hk hr hmin hlen]
  have noSide : edgeBelongs u x.sender (edgeSideAt x.payload) = none →
      Host.Outcome.next (handleEdge x (s.withQueue rest)) = discarded := fun h => congrArg _ (handleEdge_noSide h)
  refine ⟨fun h => congrArg _ (handleEdge_oversized h), fun h => noSide ?_, fun hleft h => noSide ?_,
    fun hleft hright h => noSide ?_, fun hleft hright => noSide ?_, fun h => congrArg _ (handleEdge_noRecord h), ?_⟩
  · rw [edgeSideAt_none h, edgeBelongs_noField]
  · simp only [edgeBelongs, sideOf_left hleft, edgeSideAt_left h]
  · simp only [edgeBelongs, sideOf_right hleft hright, edgeSideAt_right h]
  · exact edgeBelongs_noSender (sideOf_none hleft hright) _
  intro sd r hsize hfind hside
  rw [handleEdge_meets (s := s.withQueue rest) hsize (edgeBelongs_side hside) hfind]
  refine ⟨fun h => congrArg _ (edgeMeets_discards (.inl h)), fun h hheld => congrArg _ (edgeMeets_discards (.inr (.inl ⟨h, hheld⟩))),
    fun h hother => congrArg _ (edgeMeets_discards (.inr (.inr ⟨h, hother⟩))), fun h hnone => ?_, fun h hawaited => ?_⟩
  · rw [edgeMeets_held h hnone]
    cases sd <;> rfl
  · rw [edgeMeets_applied h hawaited]
    simp only [SectionRecord.readyIfSettled_eq]
    rfl

end Sys2Proof.Machine

/-! TRANSMISSION_COMPLETION: the telegram that leaves its group, the owed telegram or the part that follows it, and the removal of a record
whose last part has gone. -/

namespace Sys2Proof.Machine

/-! ### The telegram that leaves its group (R164) -/

/-- The state once the head of a group has been sent: it has left the group, and the receiver is in IDLE_WAIT. -/
def State.sentFrom (g : TxGroup) (s : State) : State :=
  s.onLine fun l => { l.setGroup g (l.group g).tail with tx := none, rx := .idleWait }

section
variable {s : State} {x : Transmission}

theorem sentFrom_waits (g : TxGroup) (s : State) : (s.sentFrom g).line.Waits :=
  .inl (show Receiver.idleWait ≠ .idle by decide)

/-- What is popped from a group as its transmission ends. -/
theorem popGroup_sent (g : TxGroup) (s : State) :
    setRx .idleWait (popGroup g (s.onLine fun l => { l with tx := none })) = s.sentFrom g := by
  cases g <;> rfl

theorem exec_transmissionCompletion (hl : s.resetAsserted = false) :
    exec .transmissionCompletion s = .next (transmissionCompletes s) := live_eq s _ hl

/-- From group A: the oldest owed telegram, if there is one, takes the slot (R147). -/
theorem transmissionCompletes_a (ht : s.line.tx = some x) (hg : x.group = .a) :
    transmissionCompletes s = refillA (s.sentFrom .a) := by
  simp only [transmissionCompletes, ht, hg, popGroup_sent]

theorem transmissionCompletes_b (ht : s.line.tx = some x) (hg : x.group = .b) : transmissionCompletes s = s.sentFrom .b := by
  simp only [transmissionCompletes, ht, hg, popGroup_sent]

/-- From group C: the store is told of the part, unless RESTART has condemned it (R104, R167). -/
theorem transmissionCompletes_c {p : ReportPart} {target : Nat} {queue : List Telegram} (ht : s.line.tx = some x) (hg : x.group = .c)
    (hc : s.line.groupC = ⟨target, .report p⟩ :: queue) :
    transmissionCompletes s = if x.condemned then s.sentFrom .c else reportPartDone p (s.sentFrom .c) := by
  simp only [transmissionCompletes, ht, hg, popGroup_sent, Line.group_c, hc, List.head?_cons]

theorem refillA_owed {o : Telegram} {owed : List Telegram} (h : s.line.Waits) (ho : s.watch.owed = o :: owed) :
    refillA s = { s with
      line := { s.line with groupA := s.line.groupA ++ [o] }
      watch := { s.watch with
        owed := owed
        locals := s.watch.locals.map fun r => if r.id.any (fun id => o.isRaiseOf id) then { r with owed := false } else r } } := by
  have hlocals : (s.watch.setOwed o false).locals
      = s.watch.locals.map fun r => if r.id.any (fun id => o.isRaiseOf id) then { r with owed := false } else r := by
    rw [setOwed_false_locals]
    exact List.map_congr_left fun r _ => by simp [LocalRecord.announcedBy]
  rw [← hlocals]
  simp only [refillA, ho]
  exact enqueue_waits (by exact h) _ _

theorem refillA_none (ho : s.watch.owed = []) : refillA s = s := by
  simp only [refillA, ho]
end

/-! ### The part of a report (R104) -/

section
variable {s : State} {p : ReportPart} {r : SectionRecord} {rest : List SectionRecord}

/-- A part of no SENDING record changes nothing. -/
theorem reportPartDone_foreign (h : ∀ r ∈ s.store.records.head?, ¬ (r.state = .sending ∧ r.number = p.number)) :
    reportPartDone p s = s := by
  unfold reportPartDone
  cases hrec : s.store.records with
  | nil => rfl
  | cons r rest => exact if_neg (h r (by rw [hrec]; rfl))

/-- A part of the SENDING record is followed by the next, and the last one by the removal of the record. -/
theorem reportPartDone_own (hrec : s.store.records = r :: rest) (hr : r.state = .sending) (hn : r.number = p.number) :
    reportPartDone p s = if p.index + 1 = p.count then removeOldest (enterPart s) else enterPart s := by
  simp only [reportPartDone, hrec, hr, hn, and_self, if_true]

/-- With every part queued, none enters. -/
theorem enterPart_done (hrec : s.store.records = r :: rest) (h : r.partCount ≤ r.partsQueued) : enterPart s = s := by
  have hdone : decide (r.partsQueued < r.partCount) = false := decide_eq_false (Nat.not_lt.2 h)
  simp only [enterPart, hrec, hdone, Bool.and_false, Bool.false_and, Bool.false_eq_true, if_false]

/-- While parts remain, the next one enters a group C with room. -/
theorem enterPart_next (hrec : s.store.records = r :: rest) (hr : r.state = .sending) (hw : s.line.Waits)
    (h : r.partsQueued < r.partCount) (hroom : s.line.groupC.length < 8) : enterPart s = { s with
      line := { s.line with groupC := s.line.groupC ++ [⟨31, .report (r.part r.partsQueued)⟩] }
      store := { s.store with records := { r with partsQueued := r.partsQueued + 1 } :: rest } } := by
  have hone := enterParts_waits r rest hr 1 r.partsQueued hrec hw h
  rw [Nat.min_eq_left (by omega)] at hone
  exact hone

/-- With more parts on their way and none to enter, a part leaves the store alone. -/
theorem reportPartDone_more (hrec : s.store.records = r :: rest) (hr : r.state = .sending) (hn : r.number = p.number)
    (hdone : r.partCount ≤ r.partsQueued) (hmore : p.index + 1 < p.count) : reportPartDone p s = s := by
  rw [reportPartDone_own hrec hr hn, if_neg (by omega), enterPart_done hrec hdone]

/-- After the last part the record is removed. -/
theorem reportPartDone_last (hrec : s.store.records = r :: rest) (hr : r.state = .sending) (hn : r.number = p.number)
    (hdone : r.partCount ≤ r.partsQueued) (hlast : p.index + 1 = p.count) : reportPartDone p s = removeOldest s := by
  rw [reportPartDone_own hrec hr hn, if_pos hlast, enterPart_done hrec hdone]

/-- The oldest record removed: the drain completes with the last marked one, and the next record reports (R104, R106). -/
theorem removeOldest_eq (hrec : s.store.records = r :: rest) : removeOldest s =
    startReport (if r.summary.drainMark && rest.all (fun q => !q.summary.drainMark)
      then completeDrain (s.onStore fun st => { st with records := rest }) else s.onStore fun st => { st with records := rest }) := by
  simp only [removeOldest, hrec]
  rfl

/-- A record removed that is not the last marked one completes no drain. -/
theorem removeOldest_noDrain (hrec : s.store.records = r :: rest)
    (h : r.summary.drainMark = false ∨ ∃ q ∈ rest, q.summary.drainMark = true) :
    removeOldest s = startReport (s.onStore fun st => { st with records := rest }) := by
  have hstays : (r.summary.drainMark && rest.all fun q => !q.summary.drainMark) = false := by
    obtain h | ⟨q, hq, hm⟩ := h
    · rw [h, Bool.false_and]
    · rw [List.all_eq_false.2 ⟨q, hq, by simp [hm]⟩, Bool.and_false]
  rw [removeOldest_eq hrec, hstays, if_neg Bool.false_ne_true]

/-- The removal of the last marked record completes the drain. -/
theorem removeOldest_drains (hrec : s.store.records = r :: rest) (hr : r.summary.drainMark = true)
    (h : ∀ q ∈ rest, q.summary.drainMark = false) :
    removeOldest s = startReport (completeDrain (s.onStore fun st => { st with records := rest })) := by
  have hlast : (rest.all fun q => !q.summary.drainMark) = true := List.all_eq_true.2 fun q hq => by simp [h q hq]
  rw [removeOldest_eq hrec, hr, hlast, Bool.and_self, if_pos rfl]

/-- The oldest record, READY, becomes SENDING, and the parts for which group C has room enter it (R101). -/
theorem startReport_ready (hrec : s.store.records = r :: rest) (hr : r.state = .ready) (hw : s.line.Waits) : startReport s = { s with
    line := { s.line with groupC := s.line.groupC ++
      (List.range (min r.partCount (8 - s.line.groupC.length))).map fun i => ⟨31, .report (r.part i)⟩ }
    store := { s.store with records :=
      { r with state := .sending, partsQueued := min r.partCount (8 - s.line.groupC.length) } :: rest } } := by
  rw [startReport_eq hw]
  simp [State.reported, Store.reporting, Line.entering, hrec, hr]
end

/-! ### The drain that completes (R106, R148) -/

section
variable {s : State} {requester : Nat}

theorem hasRoom_a_full (h : 4 ≤ s.line.groupA.length) : s.hasRoom .a = false :=
  Bool.eq_false_iff.2 fun hr => Nat.not_lt.2 h ((s.hasRoom_iff .a).1 hr)

theorem produceA_room (t : Telegram) (h : s.line.groupA.length < 4) (hw : s.line.Waits) :
    produceA t s = s.onLine fun l => { l with groupA := l.groupA ++ [t] } := by
  rw [produceA_enters t h, enqueue_waits hw]
  rfl

theorem produceA_owed {target : Option Nat} (h : 4 ≤ s.line.groupA.length)
    (hn : (s.watch.owed.filter Telegram.isDrained).length < 8) : produceA ⟨requester, .drained target⟩ s =
      s.onWatch fun w => { w with owed := w.owed ++ [⟨requester, .drained target⟩] } := by
  have hfew : decide (Config.owedDrainedMax ≤ (s.watch.owed.filter Telegram.isDrained).length) = false :=
    decide_eq_false (Nat.not_le.2 hn)
  rw [produceA, hasRoom_a_full h, hfew, Bool.and_false, if_neg Bool.false_ne_true, if_neg Bool.false_ne_true]
  simp only [owe, setOwed_drained]

theorem produceA_dropped {target : Option Nat} (h : 4 ≤ s.line.groupA.length)
    (hn : 8 ≤ (s.watch.owed.filter Telegram.isDrained).length) :
    produceA ⟨requester, .drained target⟩ s = record .txDropped s := by
  have hmany : decide (Config.owedDrainedMax ≤ (s.watch.owed.filter Telegram.isDrained).length) = true := decide_eq_true hn
  rw [produceA, hasRoom_a_full h, hmany, if_neg Bool.false_ne_true]
  exact if_pos rfl
end

end Sys2Proof.Machine

namespace Sys2Proof

open Machine in
/-- Settles O37: by group; in group C by the part's place in the report, and by the records and the drain its removal leaves. -/
theorem transmissionCompletes : Obligations.TransmissionCompletes := by
  intro s x hl ht
  rw [exec_transmissionCompletion hl]
  refine ⟨fun hg t o rest owed ha ho => ?_, fun hg ho => ?_, fun hg => ?_, fun hg p target queue hc => ?_⟩
  · rw [transmissionCompletes_a ht hg, refillA_owed (sentFrom_waits .a s) ho]
    simp only [State.sentFrom, State.onLine, Line.setGroup, Line.group_a, ha, List.tail_cons]
  · rw [transmissionCompletes_a ht hg, refillA_none (s := s.sentFrom .a) ho]
    rfl
  · rw [transmissionCompletes_b ht hg]
    rfl
  intro gone
  have hgone : s.sentFrom .c = gone := by
    simp only [gone, State.sentFrom, State.onLine, Line.setGroup, Line.group_c, hc, List.tail_cons]
  have hw : gone.line.Waits := hgone ▸ sentFrom_waits .c s
  rw [transmissionCompletes_c ht hg hc, hgone]
  refine ⟨fun hcond => by rw [if_pos hcond], fun hforeign => by rw [reportPartDone_foreign (s := gone) hforeign, ite_self], ?_⟩
  intro r rest hrec
  have hrec : gone.store.records = r :: rest := hrec
  refine ⟨fun hcond hr hn hdone hmore => ?_, fun hcond hr hn hpart hroom hmore => ?_, fun hcond hr hn hdone hlast => ?_⟩ <;>
    rw [hcond, if_neg Bool.false_ne_true]
  · rw [reportPartDone_more hrec hr hn hdone hmore]
  · rw [reportPartDone_own hrec hr hn, if_neg (by omega), enterPart_next hrec hr hw hpart hroom]
  intro left
  have hleft : (gone.onStore fun st => { st with records := rest }) = left := rfl
  rw [reportPartDone_last hrec hr hn hdone hlast]
  refine ⟨fun hstays => ?_, fun hmark hlastMarked hidle requester hreq => ?_⟩
  · rw [removeOldest_noDrain hrec hstays, hleft]
    refine ⟨fun hidle => by rw [startReport_idle left hidle], fun q qs hrest hq => ?_⟩
    rw [startReport_ready (s := left) hrest hq hw]
  · intro drained finished waiting
    rw [removeOldest_drains hrec hmark hlastMarked, hleft, completeDrain_produces (s := left) hreq]
    refine ⟨fun hroom => ?_, fun hfull hfew => ?_, fun hfull hmany hnf => ?_⟩
    · rw [produceA_room (s := left) _ hroom hw, startReport_idle _ hidle]
      rfl
    · rw [produceA_owed (s := left) hfull hfew, startReport_idle _ hidle]
      rfl
    · rw [produceA_dropped (s := left) hfull hmany, record_eq_recorder (s := left) hnf, startReport_idle _ hidle]
      rfl

end Sys2Proof

/-! The completion of a sweep in RUN, of a section without intrusion and alone in the store: its EDGEs, the held peer edges, its window and
its report. -/

namespace Sys2Proof.Machine

/-! ### Kinds recorded again and again -/

section
variable {s : State} {k : ErrKind}

/-- A kind that is not FATAL, recorded so many times, gives the state with its recorder changed, and nothing else. -/
theorem iterate_record_eq_recorder (h : ¬ s.ctrl.setup.fatal k) (n : Nat) :
    (record k)^[n] s = { s with recorder := ((record k)^[n] s).recorder } := by
  induction n with
  | zero => rfl
  | succ n ih =>
    have hn : ¬ ((record k)^[n] s).ctrl.setup.fatal k := by rw [ih]; exact h
    rw [Function.iterate_succ_apply', record_eq_recorder hn]
    dsimp only
    rw [ih]

/-- Recording a kind that is not FATAL so many times reads the recorder and the setup alone. -/
theorem iterate_record_recorder_congr {t : State} (hr : s.recorder = t.recorder) (hu : s.ctrl.setup = t.ctrl.setup)
    (h : ¬ s.ctrl.setup.fatal k) (n : Nat) : ((record k)^[n] s).recorder = ((record k)^[n] t).recorder := by
  induction n with
  | zero => exact hr
  | succ n ih =>
    have hs := iterate_record_eq_recorder h n
    have ht := iterate_record_eq_recorder (s := t) (hu ▸ h) n
    rw [Function.iterate_succ_apply', Function.iterate_succ_apply']
    exact record_recorder_congr ih (by rw [hs, ht]; exact hu) (by rw [hs]; exact h)
end

/-! ### The EDGEs of a swept section (R114, R115) -/

section
variable {s : State}

/-- The telegrams dropped when so many find so many free slots of group B. -/
def Line.droppedB (l : Line) (edges : List Telegram) : Nat := edges.length - (edges.take (8 - l.groupB.length)).length

theorem Line.droppedB_eq (l : Line) (edges : List Telegram) : l.droppedB edges = edges.length - (8 - l.groupB.length) := by
  rw [Line.droppedB, List.length_take]; omega

theorem Line.droppedB_nil (l : Line) : l.droppedB [] = 0 := by
  rw [Line.droppedB_eq]; exact Nat.zero_sub _

/-- The state once EDGEs have been sent: those for which group B has room have entered it, and the others are recorded as dropped. -/
def State.sentEdges (edges : List Telegram) (s : State) : State :=
  { s with
    line := { s.line with groupB := s.line.groupB ++ edges.take (8 - s.line.groupB.length) }
    recorder := ((record .txDropped)^[s.line.droppedB edges] s).recorder }

/-- EDGEs may be lost without the station's entering FAULT. -/
def State.MaySend (edges : List Telegram) (s : State) : Prop := 0 < s.line.droppedB edges → ¬ s.ctrl.setup.fatal .txDropped

/-- EDGEs lost change the recorder alone. -/
theorem State.MaySend.lost {edges : List Telegram} (h : s.MaySend edges) : (record .txDropped)^[s.line.droppedB edges] s =
    { s with recorder := ((record .txDropped)^[s.line.droppedB edges] s).recorder } := by
  obtain hz | hpos := Nat.eq_zero_or_pos (s.line.droppedB edges)
  · rw [hz]; rfl
  · exact iterate_record_eq_recorder (h hpos) _

/-- What the recorder holds of EDGEs lost does not depend on the sweep or the store. -/
theorem State.MaySend.recorder_congr {edges : List Telegram} {t : State} (h : s.MaySend edges) (hr : s.recorder = t.recorder)
    (hu : s.ctrl.setup = t.ctrl.setup) : ((record .txDropped)^[s.line.droppedB edges] s).recorder
      = ((record .txDropped)^[s.line.droppedB edges] t).recorder := by
  obtain hz | hpos := Nat.eq_zero_or_pos (s.line.droppedB edges)
  · rw [hz]; exact hr
  · exact iterate_record_recorder_congr hr hu (h hpos) _

theorem sentEdges_nil (s : State) : s.sentEdges [] = s := by
  rw [State.sentEdges, Line.droppedB_nil, List.take_nil, List.append_nil]
  rfl

theorem sendEdge_sent {nb : Nat} {e : EdgeBody} (hw : s.line.Waits) (h : s.MaySend [⟨nb, .edge e⟩]) :
    sendEdge nb e s = s.sentEdges [⟨nb, .edge e⟩] := by
  by_cases hl : s.line.groupB.length < 8
  · have hdrop : s.line.droppedB [⟨nb, .edge e⟩] = 0 := by rw [Line.droppedB_eq, List.length_singleton]; omega
    rw [sendEdge_room s nb e hl, enqueue_waits hw, State.sentEdges, hdrop, List.take_of_length_le (by rw [List.length_singleton]; omega)]
    rfl
  · have hdrop : s.line.droppedB [⟨nb, .edge e⟩] = 1 := by rw [Line.droppedB_eq, List.length_singleton]; omega
    have hnone : 8 - s.line.groupB.length = 0 := by omega
    rw [sendEdge_full nb e (by omega), State.sentEdges, hdrop, hnone, List.take_zero, List.append_nil]
    exact record_eq_recorder (h (by omega))

/-- The EDGE for the neighbour on a side, if one is configured. -/
def Setup.edgesTo (u : Setup) (sd : Side) (e : EdgeBody) : List Telegram := (u.neighbour sd).toList.map fun nb => ⟨nb, .edge e⟩

theorem edgeToSide_sent {sd : Side} {e : EdgeBody} (hw : s.line.Waits) (h : s.MaySend (s.ctrl.setup.edgesTo sd e)) :
    edgeToSide sd e s = s.sentEdges (s.ctrl.setup.edgesTo sd e) := by
  unfold Setup.edgesTo at h ⊢
  unfold edgeToSide
  cases hn : s.ctrl.setup.neighbour sd with
  | none => exact (sentEdges_nil s).symm
  | some nb =>
    rw [hn] at h
    exact sendEdge_sent hw h

/-- EDGEs sent after others find what room those have left. -/
theorem droppedB_append (xs ys : List Telegram) (s : State) :
    s.line.droppedB (xs ++ ys) = s.line.droppedB xs + (s.sentEdges xs).line.droppedB ys := by
  simp only [Line.droppedB_eq, State.sentEdges, List.length_append, List.length_take]
  omega

theorem sentEdges_append {xs ys : List Telegram} (h : s.MaySend (xs ++ ys)) :
    (s.sentEdges xs).sentEdges ys = s.sentEdges (xs ++ ys) := by
  have hdrop := droppedB_append xs ys s
  have htake : s.line.groupB ++ xs.take (8 - s.line.groupB.length)
        ++ ys.take (8 - (s.line.groupB ++ xs.take (8 - s.line.groupB.length)).length)
      = s.line.groupB ++ (xs ++ ys).take (8 - s.line.groupB.length) := by
    have hroom : 8 - (s.line.groupB ++ xs.take (8 - s.line.groupB.length)).length = 8 - s.line.groupB.length - xs.length := by
      rw [List.length_append, List.length_take]; omega
    rw [hroom, List.append_assoc, List.take_append]
  have hrecorder : ((record .txDropped)^[(s.sentEdges xs).line.droppedB ys] (s.sentEdges xs)).recorder
      = ((record .txDropped)^[s.line.droppedB (xs ++ ys)] s).recorder := by
    by_cases hz : s.line.droppedB (xs ++ ys) = 0
    · have hx : s.line.droppedB xs = 0 := by omega
      have hy : (s.sentEdges xs).line.droppedB ys = 0 := by omega
      rw [hz, hy, Function.iterate_zero_apply, Function.iterate_zero_apply, State.sentEdges, hx]
      rfl
    · have hnf : ¬ s.ctrl.setup.fatal .txDropped := h (by omega)
      have hs := iterate_record_eq_recorder hnf (s.line.droppedB xs)
      rw [hdrop, Nat.add_comm, Function.iterate_add_apply]
      exact iterate_record_recorder_congr (s := s.sentEdges xs) (t := (record .txDropped)^[s.line.droppedB xs] s) rfl
        (by rw [hs]; rfl) hnf _
  simp only [State.sentEdges] at htake hrecorder ⊢
  rw [htake, hrecorder]

/-- The EDGEs of a swept record: the left neighbour's, then the right neighbour's. -/
def SectionRecord.edgesFor (u : Setup) (r : SectionRecord) : List Telegram :=
  u.edgesTo .left (r.edgeBody u .left) ++ u.edgesTo .right (r.edgeBody u .right)

theorem sendEdges_sent {r : SectionRecord} (hr : s.ctrl.station = .run) (hw : s.line.Waits)
    (h : s.MaySend (r.edgesFor s.ctrl.setup)) : sendEdges r s = s.sentEdges (r.edgesFor s.ctrl.setup) := by
  have hleft : s.MaySend (s.ctrl.setup.edgesTo .left (r.edgeBody s.ctrl.setup .left)) := fun hd =>
    h (by rw [SectionRecord.edgesFor, droppedB_append]; omega)
  unfold sendEdges
  dsimp only
  rw [whileRun_run s _ hr, edgeToSide_sent hw hleft, whileRun_run _ _ (by exact hr)]
  refine (edgeToSide_sent (s := s.sentEdges _) (by exact hw) fun hd => ?_).trans (sentEdges_append h)
  exact h (by rw [SectionRecord.edgesFor, droppedB_append]; exact Nat.lt_of_lt_of_le hd (Nat.le_add_left _ _))
end

/-! ### The evaluation of a section without intrusion (R135, R143) -/

theorem spansOf_noIntrusion {bins : List BinRecord} (h : ∀ b ∈ bins, b.intrusion = false) : spansOf bins = [] := by
  have hnone : intrusionBins bins = [] := by
    unfold intrusionBins
    rw [List.filterMap_eq_nil_iff]
    intro b hb
    simp only [h b hb]
  simp only [spansOf, hnone]

/-- Without intrusion and with no local record, only the peer records age. -/
theorem evaluateSection_quiet {n : Nat} {bins : List BinRecord} {s : State} (hr : s.ctrl.station = .run)
    (hb : ∀ b ∈ bins, b.intrusion = false) (hl : s.watch.locals = []) : evaluateSection n bins s = agePeers s := by
  simp only [evaluateSection, spansOf_noIntrusion hb, hl, gatherGroups, List.length_nil, List.foldl_nil, List.filter_nil,
    List.flatMap_nil, whileRun_run s _ hr]

/-! ### The record that is settled (R95 to R98, R124) -/

namespace SectionRecord
variable {u : Setup} {own : Nat} {r : SectionRecord}

/-- An edge applied changes neither number nor state of a record, nor how many bin records it has. -/
theorem applyEdge_frame (u : Setup) (own : Nat) (sd : Side) (e : PeerEdge) (r : SectionRecord) :
    (r.applyEdge u own sd e).number = r.number ∧ (r.applyEdge u own sd e).bins.length = r.bins.length := by
  have hlength : (stitchBins u own sd e.peers r.bins).length = r.bins.length := List.length_map _
  cases sd <;> exact ⟨rfl, hlength⟩

theorem applyHeld_frame (u : Setup) (own : Nat) (sd : Side) (r : SectionRecord) :
    (r.applyHeld u own sd).number = r.number ∧ (r.applyHeld u own sd).bins.length = r.bins.length := by
  unfold applyHeld
  split
  · exact r.applyEdge_frame u own sd _
  · exact ⟨rfl, rfl⟩

theorem applyHeldEdges_frame (u : Setup) (own : Nat) (r : SectionRecord) :
    (r.applyHeldEdges u own).number = r.number ∧ (r.applyHeldEdges u own).bins.length = r.bins.length := by
  obtain ⟨hln, hlb⟩ := r.applyHeld_frame u own .left
  obtain ⟨hrn, hrb⟩ := (r.applyHeld u own .left).applyHeld_frame u own .right
  exact ⟨hrn.trans hln, hrb.trans hlb⟩

theorem close_length (u : Setup) (r : SectionRecord) : (r.close u).bins.length = r.bins.length := by
  rw [close_awaited]
  exact List.length_map _

/-- The start of its window leaves a record as many bin records as it had. -/
theorem startWindow_length (u : Setup) (r : SectionRecord) : (r.startWindow u).bins.length = r.bins.length := by
  unfold startWindow
  split
  · rfl
  · split
    · split
      · exact r.close_length u
      · rfl
    · rfl
    · rfl

/-- A swept record with its held peer edges applied, left first. -/
theorem applyHeldEdges_held (u : Setup) (own : Nat) (r : SectionRecord) :
    ({ r with state := .held } : SectionRecord).applyHeldEdges u own =
      (let left := r.leftEdge.elim r fun e => r.applyEdge u own .left e
       { r.rightEdge.elim left (fun e => left.applyEdge u own .right e) with leftEdge := none, rightEdge := none, state := .held }) := by
  unfold applyHeldEdges applyHeld
  cases hl : r.leftEdge <;> cases hr : r.rightEdge <;> simp [heldEdge, hl, hr, applyEdge, setSide]

/-- What becomes of a record whose sweep is over and whose held edges are applied: its window starts or has run out, or it is READY. -/
theorem startWindow_eq {z : Zones} (hz : u.zones = some z) (r : SectionRecord) : r.startWindow u =
    if r.leftSide = .awaited ∨ r.rightSide = .awaited then
      if z.basis = .time then { r with windowTimer := true } else if z.window ≤ r.windowCount then r.close u else r
    else { r with state := .ready, windowTimer := false } := by
  have hstitch : u.stitch = some (z.basis, z.window) := by rw [Setup.stitch, hz]; rfl
  unfold startWindow
  rw [hstitch]
  by_cases ha : r.leftSide = .awaited ∨ r.rightSide = .awaited
  · rw [if_pos ha, (r.awaits_iff).2 ha, Bool.not_true, if_neg Bool.false_ne_true]
    cases z.basis <;> rfl
  · rw [if_neg ha, Bool.eq_false_iff.2 fun h => ha (r.awaits_iff.1 h), Bool.not_false, if_pos rfl]

theorem partCount_le (h : r.bins.length ≤ 128) : r.partCount ≤ 5 := by
  have hcount := r.partCount_eq
  have hentries := r.length_entries_le
  omega

end SectionRecord

/-! ### The completion (R42, R95) -/

/-- The records of a number, in a store that holds that one alone. -/
theorem Store.modify_alone {st : Store} {r : SectionRecord} (h : st.records = [r]) (f : SectionRecord → SectionRecord) :
    st.modify r.number f = { st with records := [f r] } := by
  simp [Store.modify, h]

/-- The peer records after one sweep more (R143). -/
def Watch.agedPeers (w : Watch) : List PeerRecord :=
  (w.peers.map fun p => { p with age := p.age - 1 }).filter fun p => decide (0 < p.age)

/-- A record as the report, if it is READY, leaves it with room for every part. -/
def SectionRecord.reportedWhole (r : SectionRecord) : SectionRecord :=
  if r.state = .ready then { r with state := .sending, partsQueued := r.partCount } else r

/-- The parts that enter group C with the report of a record, if it is READY. -/
def SectionRecord.wholeReport (r : SectionRecord) : List Telegram :=
  if r.state = .ready then (List.range r.partCount).map fun i => ⟨31, .report (r.part i)⟩ else []

/-- A record alone in the store, of at most 128 bin records, reports all its parts at once into an empty group C. -/
theorem startReport_alone {s : State} {r : SectionRecord} (hrec : s.store.records = [r]) (hw : s.line.Waits)
    (hc : s.line.groupC = []) (hbins : r.bins.length ≤ 128) : startReport s = { s with
      store := { s.store with records := [r.reportedWhole] }
      line := { s.line with groupC := r.wholeReport } } := by
  have hparts := r.partCount_le hbins
  unfold SectionRecord.reportedWhole SectionRecord.wholeReport
  by_cases hr : r.state = .ready
  · have hall : min r.partCount (8 - s.line.groupC.length) = r.partCount := by rw [hc, List.length_nil]; omega
    rw [startReport_ready hrec hr hw, hall, hc, if_pos hr, if_pos hr, List.nil_append]
  · rw [startReport_idle s (by simp [hrec, hr]), if_neg hr, if_neg hr, ← hrec, ← hc]

section
variable {s : State} {r : SectionRecord}

/-- The record of a section without intrusion is settled: EDGEs sent, held edges applied, the peer records aged, its window started,
and its report begun. -/
theorem settleRecord_quiet {held settled : SectionRecord} (hr : s.ctrl.station = .run) (hw : s.line.Waits)
    (hrec : s.store.records = [held]) (hn : held.number = r.number) (hbins : held.bins.length ≤ 128)
    (hintrusion : ∀ b ∈ r.bins, b.intrusion = false) (hlocals : s.watch.locals = []) (hc : s.line.groupC = [])
    (h : s.MaySend (r.edgesFor s.ctrl.setup))
    (hs : settled = (held.applyHeldEdges s.ctrl.setup s.ctrl.ownNumber.toNat).startWindow s.ctrl.setup) :
    settleRecord r s = { s with
      recorder := ((record .txDropped)^[s.line.droppedB (r.edgesFor s.ctrl.setup)] s).recorder
      watch := { s.watch with peers := s.watch.agedPeers }
      store := { s.store with records := [settled.reportedWhole] }
      line := { s.line with
        groupB := s.line.groupB ++ (r.edgesFor s.ctrl.setup).take (8 - s.line.groupB.length)
        groupC := settled.wholeReport } } := by
  subst hs
  obtain ⟨hstitched, hlength⟩ := held.applyHeldEdges_frame s.ctrl.setup s.ctrl.ownNumber.toNat
  unfold settleRecord
  rw [sendEdges_sent hr hw h, ← hn]
  dsimp only [State.onStore]
  rw [Store.modify_alone (st := (s.sentEdges _).store) hrec, whileRun_run _ _ (by exact hr),
    evaluateSection_quiet (by exact hr) hintrusion (by exact hlocals), ← hstitched,
    Store.modify_alone (st := (agePeers _).store) (by rfl)]
  exact startReport_alone (by rfl) (by exact hw) hc (by rw [SectionRecord.startWindow_length, hlength]; exact hbins)

/-- The state once the sweep of a section alone in the store is closed. -/
def State.sweepEnded (r : SectionRecord) (s : State) : State :=
  { s with
    seq := { s.seq with groups := [], sweep := .idle, fixed := none, rows := 0, cols := 0 }
    echo := { acceptance := none, geometry := none }
    conv := { s.conv with scan := if s.conv.scan = .sectionScan then .periodic else s.conv.scan }
    store := { s.store with records := [{ r with state := .held }] } }

theorem completeSweep_alone (hrec : s.store.records = [r]) (hr : r.state = .sweeping) :
    completeSweep s = settleRecord r (s.sweepEnded r) := by
  have hconv : (if s.conv.scan = .sectionScan then { s.conv with scan := .periodic } else s.conv)
      = { s.conv with scan := if s.conv.scan = .sectionScan then .periodic else s.conv.scan } := by split <;> rfl
  have hsweeping : (closeSweep s).store.sweeping = some r := by
    show s.store.sweeping = some r
    simp [Store.sweeping, hrec, hr]
  have hheld : (s.store.records.map fun q => if q.state = .sweeping then { q with state := .held } else q)
      = [{ r with state := .held }] := by simp [hrec, hr]
  rw [completeSweep_eq, settleSwept, hsweeping, State.sweepEnded, ← hconv, ← hheld]
  rfl

/-- GAP_EXPIRY at the end of the sweep of a section without intrusion, alone in the store. -/
theorem exec_gapExpiry_quiet {k : Nat} {settled : SectionRecord} (h : Completing s k r) (hintrusion : ∀ b ∈ r.bins, b.intrusion = false)
    (hbins : r.bins.length ≤ 128) (hlocals : s.watch.locals = []) (hc : s.line.groupC = [])
    (hsend : s.MaySend (r.edgesFor s.ctrl.setup))
    (hs : settled = (({ r with state := .held } : SectionRecord).applyHeldEdges s.ctrl.setup s.ctrl.ownNumber.toNat).startWindow
      s.ctrl.setup) :
    exec .gapExpiry s = .next { (record .txDropped)^[s.line.droppedB (r.edgesFor s.ctrl.setup)] s with
      seq := (s.sweepEnded r).seq
      echo := (s.sweepEnded r).echo
      conv := (s.sweepEnded r).conv
      watch := { s.watch with peers := s.watch.agedPeers }
      store := { s.store with records := [settled.reportedWhole] }
      line := { s.line with
        groupB := s.line.groupB ++ (r.edgesFor s.ctrl.setup).take (8 - s.line.groupB.length)
        groupC := settled.wholeReport } } := by
  rw [exec_gapExpiry_last h.live h.gap h.last, completeSweep_alone h.alone h.sweeping,
    settleRecord_quiet (s := s.sweepEnded r) (r := r) (held := { r with state := .held }) h.run (.inl h.waits) rfl rfl hbins hintrusion hlocals
      hc hsend hs, hsend.lost, hsend.recorder_congr (t := s.sweepEnded r) rfl rfl]
  rfl
end

/-- Without neighbours no EDGE is sent. -/
theorem edgesFor_alone {u : Setup} {z : Zones} (hz : u.zones = some z) (hl : z.left = none) (hr : z.right = none) (r : SectionRecord) :
    r.edgesFor u = [] := by
  have hleft : u.neighbour .left = none := by simp [Setup.neighbour, hz, hl]
  have hright : u.neighbour .right = none := by simp [Setup.neighbour, hz, hr]
  simp [SectionRecord.edgesFor, Setup.edgesTo, hleft, hright]

/-- A record without neighbours and held edges is READY once its sweep is over. -/
theorem SectionRecord.settled_alone {u : Setup} {z : Zones} (hz : u.zones = some z) (own : Nat) {r : SectionRecord}
    (hls : r.leftSide = .none) (hrs : r.rightSide = .none) (hle : r.leftEdge = none) (hre : r.rightEdge = none) :
    (({ r with state := .held } : SectionRecord).applyHeldEdges u own).startWindow u
      = { r with state := .ready, windowTimer := false } := by
  rw [applyHeldEdges_held, startWindow_eq hz]
  simp only [hle, hre, hls, hrs, Option.elim_none, reduceCtorEq, or_self, if_false]

/-- Settles O22: the record is settled as its edges and its window say, once with no neighbour and once with any. -/
theorem sweepCompletionReports : Obligations.SweepCompletionReports := by
  refine ⟨fun s k r z hl hk hlast hrun hz hleft hright hrec hr hls hrs hle hre hintrusion hbins hlocals hc hw => ?_,
    fun s k r z h hz hintrusion hbins hlocals hc => ?_⟩
  · intro done
    have hnone := edgesFor_alone hz hleft hright r
    have hsend : s.MaySend (r.edgesFor s.ctrl.setup) := fun hd => by rw [hnone, Line.droppedB_nil] at hd; omega
    rw [exec_gapExpiry_quiet ⟨hl, hk, hlast, hrun, hrec, hr, hw⟩ hintrusion hbins hlocals hc hsend
      (SectionRecord.settled_alone hz _ hls hrs hle hre).symm, hnone, List.take_nil, List.append_nil, Line.droppedB_nil]
    rfl
  · intro u own edge edges sent hdrop told left stitched settled
    have hsettled : settled = (({ r with state := .held } : SectionRecord).applyHeldEdges u own).startWindow u := by
      rw [SectionRecord.applyHeldEdges_held, SectionRecord.startWindow_eq hz]
    exact exec_gapExpiry_quiet h hintrusion hbins hlocals hc (fun hd => hdrop (Nat.lt_of_sub_pos hd)) hsettled

end Sys2Proof.Machine

/-! The START checks: what each item's check asks of it, and what checks that all pass ensure. -/

namespace Sys2Proof.Machine

/-! ### An item that has to be stored (R174) -/

section
variable {α : Type} {o : Option α} {f : α → Bool}

/-- The check of a required item fails where the item is absent, or where its record fails. -/
theorem elim_true_eq_true : o.elim true f = true ↔ o = none ∨ ∃ v, o = some v ∧ f v = true := by
  cases o <;> simp

theorem elim_true_eq_false : o.elim true f = false ↔ ∃ v, o = some v ∧ f v = false := by
  cases o <;> simp
end

/-! ### Segments that share a bin (R74, R174) -/

/-- Two segments overlap where a bin is covered by both: then the later first bin is one. -/
theorem Segment.overlaps_iff {g h : Segment} : g.overlaps h = true ↔ ∃ b : Nat, g.covers b = true ∧ h.covers b = true := by
  simp only [overlaps, decide_eq_true_eq, covers_iff]
  constructor
  · intro hle
    exact ⟨max g.b0 h.b0, by omega, by omega⟩
  · rintro ⟨b, hg, hh⟩
    omega

theorem envelopeFails_iff {u : Setup} {j : Fin 12} : envelopeFails u j = true ↔
    ∃ (g h : Segment) (i : Fin 12) (b : Nat), u.envelope[j] = some g ∧ i < j ∧ u.envelope[i] = some h
      ∧ g.covers b = true ∧ h.covers b = true := by
  unfold envelopeFails
  cases hj : u.envelope[j] with
  | none => simp
  | some g =>
    simp only [List.any_eq_true, List.mem_finRange, true_and, Bool.and_eq_true, decide_eq_true_eq]
    constructor
    · rintro ⟨i, hij, hshare⟩
      cases hi : u.envelope[i] with
      | none => simp [hi] at hshare
      | some h =>
        simp only [hi] at hshare
        obtain ⟨b, hg, hh⟩ := Segment.overlaps_iff.1 hshare
        exact ⟨g, h, i, b, rfl, hij, hi, hg, hh⟩
    · rintro ⟨g', h, i, b, hg', hij, hi, hg, hh⟩
      obtain rfl := Option.some.inj hg'
      exact ⟨i, hij, by simp only [hi]; exact Segment.overlaps_iff.2 ⟨b, hg, hh⟩⟩

/-! ### Neighbours and zones (R112, R174) -/

theorem badZone_iff {n : Option Nat} {z : BinRange} :
    badZone n z = true ↔ n ≠ none ∧ (z.hi < z.lo ∨ 32 < z.hi - z.lo + 1) := by
  have hsize : z.hi < z.lo ∨ 32 < z.hi + 1 - z.lo ↔ z.hi < z.lo ∨ 32 < z.hi - z.lo + 1 := by omega
  simp only [badZone, Bool.and_eq_true, Bool.or_eq_true, decide_eq_true_eq, Option.isSome_iff_ne_none]
  exact and_congr_right' hsize

/-- The zone of a configured side that is not bad holds 1..32 bins. -/
theorem size_of_not_badZone {n : Option Nat} {z : BinRange} (hn : n ≠ none) (h : ¬ badZone n z = true) :
    z.lo ≤ z.hi ∧ z.hi + 1 - z.lo ≤ 32 := by
  have hsize : ¬ (z.hi < z.lo ∨ 32 < z.hi - z.lo + 1) := fun hs => h (badZone_iff.2 ⟨hn, hs⟩)
  omega

theorem zonesFail_iff {own : Nat} {z : Zones} : zonesFail own z = true ↔
    z.left = some own ∨ z.right = some own ∨ (z.left ≠ none ∧ z.right ≠ none ∧ z.left = z.right)
      ∨ badZone z.left z.leftZone = true ∨ badZone z.right z.rightZone = true := by
  have hsame : z.left ≠ none ∧ z.left = z.right ↔ z.left ≠ none ∧ z.right ≠ none ∧ z.left = z.right :=
    ⟨fun ⟨hl, he⟩ => ⟨hl, he ▸ hl, he⟩, fun ⟨hl, _, he⟩ => ⟨hl, he⟩⟩
  simp only [zonesFail, Bool.or_eq_true, Bool.and_eq_true, decide_eq_true_eq, Option.isSome_iff_ne_none, hsame, or_assoc]

section
variable {own : Nat} {u : Setup} {z : Zones}

theorem neighbour_ne_own (hz : u.zones = some z) (h : zonesFail own z = false) : ∀ sd : Side, u.neighbour sd ≠ some own
  | .left => fun he => Bool.eq_false_iff.1 h (zonesFail_iff.2 (.inl (by simpa [Setup.neighbour, hz] using he)))
  | .right => fun he => Bool.eq_false_iff.1 h (zonesFail_iff.2 (.inr (.inl (by simpa [Setup.neighbour, hz] using he))))

theorem neighbours_differ (hz : u.zones = some z) (h : zonesFail own z = false) {n : Nat} (hl : u.neighbour .left = some n) :
    u.neighbour .right ≠ some n := by
  simp only [Setup.neighbour, hz, Option.bind_some] at hl ⊢
  intro hr
  exact Bool.eq_false_iff.1 h (zonesFail_iff.2 (.inr (.inr (.inl ⟨by simp [hl], by simp [hr], hl.trans hr.symm⟩))))

theorem zone_size (hz : u.zones = some z) (h : zonesFail own z = false) {sd : Side} {r : BinRange} (hr : u.zone sd = some r) :
    r.lo ≤ r.hi ∧ r.hi + 1 - r.lo ≤ 32 := by
  have hgood := fun hbad => Bool.eq_false_iff.1 h (zonesFail_iff.2 (.inr (.inr (.inr hbad))))
  cases sd with
  | left =>
    obtain ⟨hn, rfl⟩ : z.left ≠ none ∧ z.leftZone = r := by simpa [Setup.zone, hz, Option.isSome_iff_ne_none] using hr
    exact size_of_not_badZone hn fun hbad => hgood (.inl hbad)
  | right =>
    obtain ⟨hn, rfl⟩ : z.right ≠ none ∧ z.rightZone = r := by simpa [Setup.zone, hz, Option.isSome_iff_ne_none] using hr
    exact size_of_not_badZone hn fun hbad => hgood (.inr hbad)
end

/-! ### Each item's check (R174) -/

section
variable (own : Nat) (u : Setup)

theorem itemFails_survey : itemFails own u 1 = u.survey.elim true fun v => decide (v.dMax ≤ v.dMin) := by
  cases hv : u.survey <;> simp [itemFails, hv]

theorem itemFails_head : itemFails own u 2 = u.head.isNone := rfl

theorem itemFails_calib (k : Fin 8) : itemFails own u (3 + k.val) = u.calib[k].isNone := by
  have h1 : 3 + k.val ≠ 1 := by omega
  have h2 : 3 + k.val ≠ 2 := by omega
  have h : 3 ≤ 3 + k.val ∧ 3 + k.val < 11 := by omega
  simp only [itemFails, h1, h2, h, if_false, dif_pos, Nat.add_sub_cancel_left, Fin.getElem_fin, and_self]

theorem itemFails_sweep : itemFails own u 11 = u.sweep.elim true fun w => decide (w.dwellLong < w.dwellShort) := by
  cases hw : u.sweep <;> simp [itemFails, hw]

theorem itemFails_zones : itemFails own u 12 = u.zones.elim true (zonesFail own) := by
  cases hz : u.zones <;> simp [itemFails, hz]

theorem itemFails_envelope (j : Fin 12) : itemFails own u (13 + j.val) = envelopeFails u j := by
  have h1 : 13 + j.val ≠ 1 := by omega
  have h2 : 13 + j.val ≠ 2 := by omega
  have h3 : ¬ (3 ≤ 13 + j.val ∧ 13 + j.val < 11) := by omega
  have h11 : 13 + j.val ≠ 11 := by omega
  have h12 : 13 + j.val ≠ 12 := by omega
  have h : 13 ≤ 13 + j.val ∧ 13 + j.val < 25 := by omega
  simp only [itemFails, h1, h2, h3, h11, h12, h, if_false, dif_neg, dif_pos, Nat.add_sub_cancel_left, not_false_eq_true, and_self]

theorem itemFails_aux : itemFails own u 30 = u.aux.isNone := rfl

theorem itemFails_line : itemFails own u 31 = u.line.elim true fun l => decide (6 ≤ l.orderCode) := by
  cases hl : u.line <;> simp [itemFails, hl]

/-- The items without a check. -/
theorem itemFails_unchecked {item : Nat} (h : (25 ≤ item ∧ item ≤ 29) ∨ item = 32) : itemFails own u item = false := by
  have h1 : item ≠ 1 := by omega
  have h2 : item ≠ 2 := by omega
  have h3 : ¬ (3 ≤ item ∧ item < 11) := by omega
  have h11 : item ≠ 11 := by omega
  have h12 : item ≠ 12 := by omega
  have h13 : ¬ (13 ≤ item ∧ item < 25) := by omega
  have h30 : item ≠ 30 := by omega
  have h31 : item ≠ 31 := by omega
  simp only [itemFails, h1, h2, h3, h11, h12, h13, h30, h31, if_false, dif_neg, not_false_eq_true]
end

/-! ### All checks passed (R112, R174) -/

/-- Segments of two entries share no bin where the check of the later entry passes. -/
theorem disjoint_of_envelopeFails {u : Setup} (h : ∀ j : Fin 12, envelopeFails u j = false) {i j : Fin 12} {g k : Segment}
    (hne : i ≠ j) (hg : u.envelope[i] = some g) (hk : u.envelope[j] = some k) (b : Nat) :
    ¬ (g.covers b = true ∧ k.covers b = true) := by
  rintro ⟨hgb, hkb⟩
  obtain hij | hji := lt_or_gt_of_ne hne
  · exact Bool.eq_false_iff.1 (h j) (envelopeFails_iff.2 ⟨k, g, i, b, hk, hij, hg, hkb, hgb⟩)
  · exact Bool.eq_false_iff.1 (h i) (envelopeFails_iff.2 ⟨g, k, j, b, hg, hji, hk, hgb, hkb⟩)

/-- Settles O14: each item's check is its row of the table, and what passes is the negation of every row. -/
theorem passedChecksEnsure : Obligations.PassedChecksEnsure := by
  refine ⟨fun own u => ?_, fun own u h => ?_⟩
  · intro badZone
    refine ⟨?_, ?_, fun k => ?_, ?_, ?_, fun j => ?_, fun _ => itemFails_unchecked own u, ?_, ?_⟩
    · simp only [itemFails_survey, elim_true_eq_true, decide_eq_true_eq, not_lt]
    · rw [itemFails_head, Option.isNone_iff_eq_none]
    · rw [itemFails_calib, Option.isNone_iff_eq_none]
    · simp only [itemFails_sweep, elim_true_eq_true, decide_eq_true_eq]
    · simp only [itemFails_zones, elim_true_eq_true, zonesFail_iff, badZone_iff, badZone]
    · rw [itemFails_envelope, envelopeFails_iff]
    · rw [itemFails_aux, Option.isNone_iff_eq_none]
    · simp only [itemFails_line, elim_true_eq_true, decide_eq_true_eq]
  · obtain ⟨v, hv, hrange⟩ := elim_true_eq_false.1 ((itemFails_survey own u).symm.trans (h 1 (by omega) (by omega)))
    obtain ⟨w, hw, hdwell⟩ := elim_true_eq_false.1 ((itemFails_sweep own u).symm.trans (h 11 (by omega) (by omega)))
    obtain ⟨l, hl, horder⟩ := elim_true_eq_false.1 ((itemFails_line own u).symm.trans (h 31 (by omega) (by omega)))
    obtain ⟨z, hz, hzones⟩ := elim_true_eq_false.1 ((itemFails_zones own u).symm.trans (h 12 (by omega) (by omega)))
    have hhead := (itemFails_head own u).symm.trans (h 2 (by omega) (by omega))
    have hcalib (k : Fin 8) := (itemFails_calib own u k).symm.trans (h (3 + k.val) (by omega) (by omega))
    have haux := (itemFails_aux own u).symm.trans (h 30 (by omega) (by omega))
    have henvelope (j : Fin 12) := (itemFails_envelope own u j).symm.trans (h (13 + j.val) (by omega) (by omega))
    refine ⟨⟨v, hv, not_le.1 (of_decide_eq_false hrange)⟩, Option.isNone_eq_false_iff.1 hhead,
      fun k => Option.isNone_eq_false_iff.1 (hcalib k), ⟨w, hw, not_lt.1 (of_decide_eq_false hdwell)⟩,
      Option.isNone_eq_false_iff.1 haux, ⟨l, hl, Nat.lt_succ_iff.1 (not_le.1 (of_decide_eq_false horder))⟩,
      Option.isSome_iff_exists.2 ⟨z, hz⟩, neighbour_ne_own hz hzones, fun _ => neighbours_differ hz hzones,
      fun _ _ => zone_size hz hzones, fun i j g k hne hg hk b => disjoint_of_envelopeFails henvelope hne hg hk b⟩

end Sys2Proof.Machine

/-! The ownership rule: its tests against the peer entry found, who of two stations wins, and what an applied edge marks. -/

namespace Sys2Proof.Machine

/-! ### The ownership rule (R126, R127) -/

/-- An own bin record prevails over a peer entry: by quality, then by count, then by the lower station number (R127). -/
def BinRecord.Prevails (own other : Nat) (b : BinRecord) (e : EdgeEntry) : Prop :=
  e.qBest < b.qBest ∨ (b.qBest = e.qBest ∧ (e.nLast < b.nLast ∨ (b.nLast = e.nLast ∧ own < other)))

theorem BinRecord.not_prevails_iff {own other : Nat} {b : BinRecord} {e : EdgeEntry} : ¬ b.Prevails own other e ↔
    b.qBest < e.qBest ∨ (b.qBest = e.qBest ∧ (b.nLast < e.nLast ∨ (b.nLast = e.nLast ∧ other ≤ own))) := by
  unfold Prevails
  omega

section
variable {own other : Nat} {entries : List EdgeEntry} {b : BinRecord} {e : EdgeEntry}

theorem ownership_kept (h : ∀ e ∈ entries, e.bin ≠ b.bin) : ownership own other entries b = .kept := by
  have hfind : (entries.find? fun e => e.bin == b.bin) = none := List.find?_eq_none.2 fun e he => by simp [h e he]
  unfold ownership
  rw [hfind]

/-- The entry used is the first that names the bin (R126). -/
theorem find_entry {before after : List EdgeEntry} (hbefore : ∀ d ∈ before, d.bin ≠ b.bin) (he : e.bin = b.bin) :
    ((before ++ e :: after).find? fun e => e.bin == b.bin) = some e :=
  List.find?_eq_some_iff_append.2 ⟨by simp [he], before, after, rfl, fun d hd => by simp [hbefore d hd]⟩

theorem ownership_won (hfind : (entries.find? fun e => e.bin == b.bin) = some e) (h : b.Prevails own other e) :
    ownership own other entries b = .won := by
  unfold ownership
  rw [hfind]
  obtain hquality | ⟨hquality, hcount | ⟨hcount, hlower⟩⟩ := h
  · simp [hquality]
  · simp [hquality, hcount]
  · simp [hquality, hcount, hlower]

theorem ownership_lost (hfind : (entries.find? fun e => e.bin == b.bin) = some e) (h : ¬ b.Prevails own other e) :
    ownership own other entries b = .lost := by
  unfold ownership
  rw [hfind]
  obtain hquality | ⟨hquality, hcount | ⟨hcount, hlower⟩⟩ := BinRecord.not_prevails_iff.1 h
  · simp [hquality, hquality.not_gt]
  · simp [hquality, hcount, hcount.not_gt]
  · simp [hquality, hcount, hlower.not_gt]
end

/-- Of two records, each against the other's entry, exactly one prevails. -/
theorem BinRecord.prevails_iff_not {own other : Nat} (hne : own ≠ other) (mine yours : BinRecord) :
    mine.Prevails own other ⟨yours.bin, yours.qBest, yours.nLast⟩
      ↔ ¬ yours.Prevails other own ⟨mine.bin, mine.qBest, mine.nLast⟩ := by
  unfold Prevails
  dsimp only
  omega

/-! ### The marks (R128) -/

/-- No mark clears CEDED. -/
theorem BinRecord.mark_ceded {b : BinRecord} (h : b.ceded = true) (o : Ownership) : (b.mark o).ceded = true := by
  cases o with
  | kept => exact h
  | won => exact h
  | lost => rfl

section
variable (u : Setup) (own : Nat) (sd : Side)

/-- A bin record after an edge: marked inside the zone of the side, itself outside. -/
def BinRecord.stitched (peers : List EdgeEntry) (b : BinRecord) : BinRecord :=
  if u.inZone sd b.bin then b.mark (ownership own ((u.neighbour sd).getD own) peers b) else b

theorem stitchBins_eq (peers : List EdgeEntry) (bins : List BinRecord) :
    stitchBins u own sd peers bins = bins.map (BinRecord.stitched u own sd peers) := rfl

theorem BinRecord.stitched_outside {peers : List EdgeEntry} {b : BinRecord} (h : u.inZone sd b.bin = false) :
    b.stitched u own sd peers = b := by simp [stitched, h]

theorem BinRecord.stitched_inside {peers : List EdgeEntry} {b : BinRecord} {other : Nat} (h : u.inZone sd b.bin = true)
    (hn : u.neighbour sd = some other) : b.stitched u own sd peers = b.mark (ownership own other peers b) := by
  simp [stitched, h, hn]

theorem BinRecord.stitched_ceded (peers : List EdgeEntry) {b : BinRecord} (h : b.ceded = true) :
    (b.stitched u own sd peers).ceded = true := by
  unfold stitched
  split
  · exact mark_ceded h _
  · exact h

theorem countCeded_le_stitchBins (peers : List EdgeEntry) (bins : List BinRecord) :
    countCeded bins ≤ countCeded (stitchBins u own sd peers bins) := by
  simp only [countCeded, ← List.countP_eq_length_filter, stitchBins_eq, List.countP_map]
  exact List.countP_mono_left fun b _ hb => b.stitched_ceded u own sd peers hb

/-- Where the ceded count is right, an edge applied changes the bins, the ceded count to theirs, and the side (R122). -/
theorem SectionRecord.applyEdge_eq (e : PeerEdge) {r : SectionRecord} (h : r.summary.cededCount = countCeded r.bins) :
    r.applyEdge u own sd e = { r with
      bins := stitchBins u own sd e.peers r.bins
      summary := { r.summary with cededCount := countCeded (stitchBins u own sd e.peers r.bins) }
      leftSide := if sd = .left then .settled else r.leftSide
      rightSide := if sd = .right then .settled else r.rightSide } := by
  have hcount := Nat.add_sub_cancel' (countCeded_le_stitchBins u own sd e.peers r.bins)
  unfold applyEdge
  dsimp only
  rw [h, hcount]
  cases sd <;> rfl
end

/-- Settles O38: the record prevails over the entry found or not, of two records one does, and an edge marks bin by bin. -/
theorem ownershipDecidesOnce : Obligations.OwnershipDecidesOnce := by
  refine ⟨fun own other entries b => ⟨ownership_kept, ?_⟩, fun own other mine yours entries back hne hbin hmine hyours => ?_,
    fun u own sd e r hcount => ?_⟩
  · rintro before after e rfl hbefore he
    have hfind := find_entry (after := after) hbefore he
    exact ⟨fun hq => ownership_won hfind (.inl hq),
      fun hq => ownership_lost hfind (BinRecord.not_prevails_iff.2 (.inl hq)),
      fun hq hn => ownership_won hfind (.inr ⟨hq, .inl hn⟩),
      fun hq hn => ownership_lost hfind (BinRecord.not_prevails_iff.2 (.inr ⟨hq, .inl hn⟩)),
      fun hq hn hlower => ownership_won hfind (.inr ⟨hq, .inr ⟨hn, hlower⟩⟩),
      fun hq hn hlower => ownership_lost hfind (BinRecord.not_prevails_iff.2 (.inr ⟨hq, .inr ⟨hn, hlower⟩⟩))⟩
  · have hone := BinRecord.prevails_iff_not hne mine yours
    by_cases hp : mine.Prevails own other ⟨yours.bin, yours.qBest, yours.nLast⟩
    · exact .inl ⟨ownership_won hmine hp, ownership_lost hyours (hone.1 hp)⟩
    · exact .inr ⟨ownership_lost hmine hp, ownership_won hyours (not_not.1 (mt hone.2 hp))⟩
  · rw [r.applyEdge_eq u own sd e hcount]
    refine ⟨rfl, List.length_map _, fun i b c hb hc => ?_⟩
    obtain rfl : b.stitched u own sd e.peers = c := by simpa [stitchBins_eq, hb] using hc
    refine ⟨BinRecord.stitched_outside u own sd, fun hzone other hn => ?_⟩
    rw [BinRecord.stitched_inside u own sd hzone hn]
    exact ⟨fun hkept => congrArg b.mark hkept, fun hwon => congrArg b.mark hwon, fun hlost => congrArg b.mark hlost⟩

end Sys2Proof.Machine

/-! ALERT_RAISE and ALERT_END: what they make of the peer records and of the local records that a span intersects. -/

namespace Sys2Proof.Machine

/-! ### Spans that intersect (R139, R145) -/

/-- Ranges of bins intersect as their ends say, whether read as whole numbers or as naturals. -/
theorem intersects_natCast (a b c d : Nat) : intersects a b c d = decide (max a c ≤ min b d) := by
  unfold intersects
  exact decide_eq_decide.2 (by omega)

theorem corroborateRaised_eq (first last : Nat) (s : State) : corroborateRaised first last s = { s with watch := { s.watch with
    locals := s.watch.locals.map fun r =>
      if r.state = .raised ∧ max r.first first ≤ min r.last last then { r with corroborated := true } else r } } := by
  simp only [corroborateRaised, intersects_natCast, Bool.and_eq_true, decide_eq_true_eq]
  rfl

/-! ### The peer record of a RAISE (R145) -/

section
variable {s : State} {source : Nat} {a : Alert} {z : Zones}

theorem notePeer_known (h : ∃ p ∈ s.watch.peers, p.source = source ∧ p.id = a.id) :
    notePeer source a s = { s with watch := { s.watch with peers := s.watch.peers.map fun p =>
      if p.source = source ∧ p.id = a.id then
        { p with first := a.spanFirst, last := a.spanLast, age := s.ctrl.setup.watchItem.peerAge } else p } } := by
  unfold notePeer
  exact if_pos (by simpa using h)

/-- A RAISE of a source and id that no peer record has is judged by the coverage range, and then by the room in the table. -/
theorem notePeer_new (h : ∀ p ∈ s.watch.peers, ¬ (p.source = source ∧ p.id = a.id)) (hz : s.ctrl.setup.zones = some z) :
    notePeer source a s =
      if max (a.spanFirst : Int) ((z.coverage.lo : Int) - s.ctrl.setup.watchItem.guard)
          ≤ min (a.spanLast : Int) ((z.coverage.hi : Int) + s.ctrl.setup.watchItem.guard) then
        if 16 ≤ s.watch.locals.length + s.watch.peers.length then record .watchFull s
        else { s with watch := { s.watch with
          peers := s.watch.peers ++ [⟨source, a.id, a.spanFirst, a.spanLast, s.ctrl.setup.watchItem.peerAge⟩] } }
      else s := by
  have hnone : (s.watch.peers.any fun p => p.source == source && p.id == a.id) = false := by simpa using h
  unfold notePeer
  simp only [hnone, hz, intersects, decide_eq_true_eq, Bool.false_eq_true, if_false]
  rfl
end

/-! ### ALERT_RAISE and ALERT_END (R145, R146) -/

section
variable {s : State} {x : Received} {rest : List Received}

theorem handleRaise_inverted (h : (readAlert x.payload).spanLast < (readAlert x.payload).spanFirst) : handleRaise x s = s := if_pos h

theorem handleRaise_ordered (h : (readAlert x.payload).spanFirst ≤ (readAlert x.payload).spanLast) :
    handleRaise x s = corroborateRaised (readAlert x.payload).spanFirst (readAlert x.payload).spanLast
      (notePeer x.sender (readAlert x.payload) s) := if_neg (Nat.not_lt.2 h)

theorem handleEnd_eq : handleEnd x s = { s with watch := { s.watch with
    peers := s.watch.peers.filter fun p => !decide (p.source = x.sender ∧ p.id = (readAlert x.payload).id) } } := by
  unfold handleEnd
  simp only [Bool.decide_and, ← beq_eq_decide]
  rfl

/-- An ALERT of its phase and of the admitted length is handled, in RUN and in HALTED. -/
theorem takeOldest_alert {act : Received → State → State} {isEnd : Bool} (hl : s.resetAsserted = false)
    (hq : s.line.queue = x :: rest) (hk : x.kind = .alert) (hr : s.ctrl.station = .run ∨ s.ctrl.station = .halted)
    (hp : x.payload.length = 17) (he : (readAlert x.payload).isEnd = isEnd) :
    live (takeOldest (Received.isAlert isEnd) act) s = .next (act x (s.withQueue rest)) := by
  have ha : s.ctrl.station.accepts .alert = true := by obtain h | h := hr <;> rw [h] <;> rfl
  have hlen : lengthAdmitted .alert x.payload = true := decide_eq_true hp
  have hmine : Received.isAlert isEnd x = true := by simp [Received.isAlert, hk, he]
  rw [live_eq s _ hl, takeOldest_handled s _ _ x rest hq hmine (by rwa [hk]) (by rwa [hk])]
end

/-- Settles O41: an END removes its peer record; a RAISE notes its own, by the record found or else the coverage range and the room, and
corroborates. -/
theorem peerAlerts : Obligations.PeerAlerts := by
  intro x rest s hl hq hk hr hp a u raised
  have hend (he : a.isEnd = true) : exec .alertEnd s = .next (handleEnd x (s.withQueue rest)) := takeOldest_alert hl hq hk hr hp he
  have hraise (he : a.isEnd = false) : exec .alertRaise s = .next (handleRaise x (s.withQueue rest)) :=
    takeOldest_alert hl hq hk hr hp he
  refine ⟨fun he => ?_, fun he hspan => ?_, fun he hspan hknown => ?_, fun he hspan hnew z hz => ?_⟩
  · rw [hend he, handleEnd_eq]
    rfl
  · rw [hraise he, handleRaise_inverted hspan]
  · rw [hraise he, handleRaise_ordered hspan, notePeer_known (s := s.withQueue rest) (a := a) hknown, corroborateRaised_eq]
    rfl
  · have hnote := notePeer_new (s := s.withQueue rest) (a := a) hnew hz
    rw [hraise he, handleRaise_ordered hspan]
    intro meets
    refine ⟨fun hout => ?_, fun hin hroom => ?_, fun hin hfull hnf => ?_⟩
    · rw [hnote.trans (if_neg hout), corroborateRaised_eq]
      rfl
    · rw [hnote.trans ((if_pos hin).trans (if_neg (Nat.not_le.2 hroom))), corroborateRaised_eq]
      rfl
    · rw [hnote.trans ((if_pos hin).trans (if_pos hfull)), record_eq_recorder (s := s.withQueue rest) hnf, corroborateRaised_eq]
      rfl

end Sys2Proof.Machine

/-! The spans of a section and their bins, the groups of spans and local records with their ranges, and the id that is tried first. -/

namespace Sys2Proof.Machine

/-! ### The INTRUSION bins of a section (R136) -/

theorem mem_intrusionBins {bins : List BinRecord} {x : Nat × Int} :
    x ∈ intrusionBins bins ↔ ∃ b ∈ bins, b.intrusion = true ∧ b.bin = x.1 ∧ b.cMin = some x.2 := by
  unfold intrusionBins
  rw [List.mem_filterMap]
  refine exists_congr fun b => and_congr_right fun _ => ?_
  cases b.intrusion <;> cases b.cMin <;> simp [Prod.ext_iff]

theorem intrusionBins_ascend {bins : List BinRecord} (h : bins.Pairwise fun x y => x.bin < y.bin) :
    (intrusionBins bins).Pairwise fun x y => x.1 < y.1 := by
  refine List.Pairwise.filterMap _ (fun b c hbc x hx y hy => ?_) h
  obtain ⟨b', hb', -, hxb, -⟩ := mem_intrusionBins (bins := [b]).1 (List.mem_filterMap.2 ⟨b, List.mem_singleton_self b, hx⟩)
  obtain ⟨c', hc', -, hyc, -⟩ := mem_intrusionBins (bins := [c]).1 (List.mem_filterMap.2 ⟨c, List.mem_singleton_self c, hy⟩)
  rw [← hxb, ← hyc, List.mem_singleton.1 hb', List.mem_singleton.1 hc']
  exact hbc

/-! ### What a span is of bins and clearances (R136) -/

/-- A span of a list of bins with their clearances: it runs from one of them up to one of them, in steps of at most 2, and has the lowest
clearance among those it holds. -/
structure Span.Of (p : Span) (l : List (Nat × Int)) : Prop where
  ordered : p.first ≤ p.last
  first   : ∃ x ∈ l, x.1 = p.first
  last    : ∃ x ∈ l, x.1 = p.last
  attains : ∃ x ∈ l, p.first ≤ x.1 ∧ x.1 ≤ p.last ∧ x.2 = p.clearance
  lowest  : ∀ x ∈ l, p.first ≤ x.1 → x.1 ≤ p.last → p.clearance ≤ x.2
  next    : ∀ x ∈ l, p.first ≤ x.1 → x.1 < p.last → ∃ y ∈ l, x.1 < y.1 ∧ y.1 ≤ x.1 + 2

namespace Span.Of
variable {p : Span} {l : List (Nat × Int)} {b : Nat × Int}

/-- A bin above a span is no part of it. -/
theorem append (h : p.Of l) {m : List (Nat × Int)} (hm : ∀ x ∈ m, p.last < x.1) : p.Of (l ++ m) := by
  have hold : ∀ x ∈ l ++ m, x.1 ≤ p.last → x ∈ l := fun x hx hlast =>
    (List.mem_append.1 hx).resolve_right fun hxm => Nat.not_lt.2 hlast (hm x hxm)
  have keep : ∀ {P : Nat × Int → Prop}, (∃ x ∈ l, P x) → ∃ x ∈ l ++ m, P x := fun ⟨x, hx, hp⟩ => ⟨x, List.mem_append_left _ hx, hp⟩
  exact ⟨h.ordered, keep h.first, keep h.last, keep h.attains, fun x hx hf hl => h.lowest x (hold x hx hl) hf hl,
    fun x hx hf hl => keep (h.next x (hold x hx hl.le) hf hl)⟩

/-- A bin above all others is a span by itself. -/
theorem single (h : ∀ x ∈ l, x.1 < b.1) : (⟨b.1, b.1, b.2⟩ : Span).Of (l ++ [b]) := by
  have hmem : b ∈ l ++ [b] := List.mem_append_right _ (List.mem_singleton_self b)
  refine ⟨Nat.le_refl _, ⟨b, hmem, rfl⟩, ⟨b, hmem, rfl⟩, ⟨b, hmem, Nat.le_refl _, Nat.le_refl _, rfl⟩, fun x hx hf _ => ?_,
    fun x _ hf hl => absurd hf (Nat.not_le.2 hl)⟩
  obtain hx | hx := List.mem_append.1 hx
  · exact absurd hf (Nat.not_le.2 (h x hx))
  · rw [List.mem_singleton.1 hx]

/-- A bin at most 2 above the end of a span that ends the list joins it. -/
theorem join (h : p.Of l) (hend : ∀ x ∈ l, x.1 ≤ p.last) (hb : p.last < b.1) (hnear : b.1 ≤ p.last + 2) :
    (⟨p.first, b.1, min p.clearance b.2⟩ : Span).Of (l ++ [b]) := by
  have hmem : b ∈ l ++ [b] := List.mem_append_right _ (List.mem_singleton_self b)
  have hfirst : p.first ≤ b.1 := h.ordered.trans hb.le
  obtain ⟨x, hx, hxf⟩ := h.first
  obtain ⟨y, hy, hyf, hyl, hyc⟩ := h.attains
  refine ⟨hfirst, ⟨x, List.mem_append_left _ hx, hxf⟩, ⟨b, hmem, rfl⟩, ?_, fun z hz hf _ => ?_, fun z hz hf hl => ?_⟩
  · obtain hc | hc := min_choice p.clearance b.2
    · exact ⟨y, List.mem_append_left _ hy, hyf, hyl.trans hb.le, hyc.trans hc.symm⟩
    · exact ⟨b, hmem, hfirst, Nat.le_refl _, hc.symm⟩
  · obtain hz | hz := List.mem_append.1 hz
    · exact (min_le_left _ _).trans (h.lowest z hz hf (hend z hz))
    · rw [List.mem_singleton.1 hz]
      exact min_le_right _ _
  · obtain hz | hz := List.mem_append.1 hz
    · obtain hlt | heq := Nat.lt_or_eq_of_le (hend z hz)
      · obtain ⟨c, hc, hstep⟩ := h.next z hz hf hlt
        exact ⟨c, List.mem_append_left _ hc, hstep⟩
      · exact ⟨b, hmem, by omega, by omega⟩
    · rw [List.mem_singleton.1 hz] at hl
      exact absurd hl (Nat.lt_irrefl _)

end Span.Of

/-- Every span joined from ascending bins is a span of all the bins, those of the open span and those still to come. -/
theorem joinSpans_of {cur : Span} {seen : List (Nat × Int)} (rest : List (Nat × Int)) (hcur : cur.Of seen)
    (hseen : ∀ x ∈ seen, x.1 ≤ cur.last) (hrest : ∀ x ∈ rest, cur.last < x.1) (hascend : rest.Pairwise fun x y => x.1 < y.1) :
    ∀ p ∈ joinSpans cur rest, p.Of (seen ++ rest) := by
  induction rest generalizing cur seen with
  | nil => simpa [joinSpans] using hcur
  | cons b rest ih =>
    obtain ⟨hb, htail⟩ := List.pairwise_cons.1 hascend
    have hlast : cur.last < b.1 := hrest b List.mem_cons_self
    have hseen' : ∀ x ∈ seen ++ [b], x.1 ≤ b.1 := fun x hx => (List.mem_append.1 hx).elim
      (fun hx => (hseen x hx).trans hlast.le) fun hx => by rw [List.mem_singleton.1 hx]
    rw [List.append_cons]
    unfold joinSpans
    split
    next hnear => exact ih (hcur.join hseen hlast hnear) hseen' hb htail
    next =>
      refine List.forall_mem_cons.2 ⟨?_, ih (Span.Of.single fun x hx => (hseen x hx).trans_lt hlast) hseen' hb htail⟩
      rw [← List.append_cons]
      exact hcur.append hrest

/-- The spans joined hold every bin of the open span and every bin still to come. -/
theorem joinSpans_covers (cur : Span) (rest : List (Nat × Int)) (n : Nat)
    (h : (cur.first ≤ n ∧ n ≤ cur.last) ∨ ∃ x ∈ rest, x.1 = n) (hcur : cur.first ≤ cur.last) (hrest : ∀ x ∈ rest, cur.last < x.1)
    (hascend : rest.Pairwise fun x y => x.1 < y.1) : ∃ p ∈ joinSpans cur rest, p.first ≤ n ∧ n ≤ p.last := by
  induction rest generalizing cur with
  | nil => exact ⟨cur, List.mem_singleton_self cur, h.resolve_right (by simp)⟩
  | cons b rest ih =>
    obtain ⟨hb, htail⟩ := List.pairwise_cons.1 hascend
    have hlast : cur.last < b.1 := hrest b List.mem_cons_self
    have hmore : (∃ x ∈ b :: rest, x.1 = n) → n = b.1 ∨ ∃ x ∈ rest, x.1 = n := by
      rintro ⟨x, hx, rfl⟩
      exact (List.mem_cons.1 hx).imp (congrArg Prod.fst) fun hx => ⟨x, hx, rfl⟩
    unfold joinSpans
    split
    · refine ih ⟨cur.first, b.1, min cur.clearance b.2⟩ ?_ (hcur.trans hlast.le) hb htail
      obtain ⟨hf, hl⟩ | h := h
      · exact .inl ⟨hf, hl.trans hlast.le⟩
      · exact (hmore h).imp_left fun hn => ⟨(hcur.trans hlast.le).trans hn.ge, hn.le⟩
    · obtain h | h := h
      · exact ⟨cur, List.mem_cons_self, h⟩
      · obtain ⟨p, hp, hin⟩ := ih ⟨b.1, b.1, b.2⟩ ((hmore h).imp_left fun hn => ⟨hn.ge, hn.le⟩) (Nat.le_refl _) hb htail
        exact ⟨p, List.mem_cons_of_mem _ hp, hin⟩

/-- The spans of a section with an ascending bin list: at least 3 apart, each a span of the INTRUSION bins, and together they hold them. -/
theorem spansOf_spec {bins : List BinRecord} (h : bins.Pairwise fun x y => x.bin < y.bin) :
    (spansOf bins).Pairwise (fun p q => p.last + 3 ≤ q.first) ∧ (∀ p ∈ spansOf bins, p.Of (intrusionBins bins))
      ∧ ∀ x ∈ intrusionBins bins, ∃ p ∈ spansOf bins, p.first ≤ x.1 ∧ x.1 ≤ p.last := by
  have hascend := intrusionBins_ascend h
  unfold spansOf
  split
  next hnone => exact ⟨.nil, nofun, by simp [hnone]⟩
  next b c rest hsome =>
    rw [hsome] at hascend ⊢
    obtain ⟨hb, htail⟩ := List.pairwise_cons.1 hascend
    refine ⟨(joinSpans_apart ⟨b, b, c⟩ rest (Nat.le_refl _) hb htail).2,
      joinSpans_of rest (Span.Of.single (l := []) (b := (b, c)) (by simp)) (by simp) hb htail, fun x hx => ?_⟩
    refine joinSpans_covers ⟨b, b, c⟩ rest x.1 ?_ (Nat.le_refl _) hb htail
    exact (List.mem_cons.1 hx).imp (fun hx => by rw [hx]; exact ⟨Nat.le_refl _, Nat.le_refl _⟩) fun hx => ⟨x, hx, rfl⟩

/-! ### The ends of a group, and a group of spans alone (R137) -/

/-- A fold that chooses one of two gives its start or an entry of the list. -/
theorem foldl_choice_mem {f : Nat → Nat → Nat} (hf : ∀ a b, f a b = a ∨ f a b = b) (l : List Nat) (a : Nat) :
    l.foldl f a = a ∨ l.foldl f a ∈ l := by
  induction l generalizing a with
  | nil => exact .inl rfl
  | cons x l ih =>
    obtain h | h := ih (f a x)
    · rw [List.foldl_cons, h]
      exact (hf a x).imp_right fun h => by rw [h]; exact List.mem_cons_self
    · exact .inr (List.mem_cons_of_mem _ h)

/-- Some member of a group begins where the group begins, and some member ends where it ends. -/
structure SpanGroup.Tight (g : SpanGroup) : Prop where
  first : (∃ p ∈ g.spans, p.first = g.first) ∨ ∃ x ∈ g.locals, x.first = g.first
  last  : (∃ p ∈ g.spans, p.last = g.last) ∨ ∃ x ∈ g.locals, x.last = g.last

theorem SpanGroup.Tight.join {g : SpanGroup} (h : g.Tight) (ls : List LocalRecord) (sps : List Span) : (g.join ls sps).Tight := by
  have widen : ∀ {P : Span → Prop} {Q : LocalRecord → Prop}, (∃ p ∈ g.spans, P p) ∨ (∃ x ∈ g.locals, Q x) →
      (∃ p ∈ g.spans ++ sps, P p) ∨ ∃ x ∈ g.locals ++ ls, Q x := fun h => h.imp
    (fun ⟨p, hp, hP⟩ => ⟨p, List.mem_append_left _ hp, hP⟩) fun ⟨x, hx, hQ⟩ => ⟨x, List.mem_append_left _ hx, hQ⟩
  have joined : ∀ {f : LocalRecord → Nat} {f' : Span → Nat} {n : Nat}, n ∈ ls.map f ++ sps.map f' →
      (∃ p ∈ g.spans ++ sps, f' p = n) ∨ ∃ x ∈ g.locals ++ ls, f x = n := fun h => by
    obtain h | h := List.mem_append.1 h
    · obtain ⟨x, hx, hn⟩ := List.mem_map.1 h
      exact .inr ⟨x, List.mem_append_right _ hx, hn⟩
    · obtain ⟨p, hp, hn⟩ := List.mem_map.1 h
      exact .inl ⟨p, List.mem_append_right _ hp, hn⟩
  constructor
  · obtain he | he : (g.join ls sps).first = g.first ∨ (g.join ls sps).first ∈ ls.map (·.first) ++ sps.map (·.first) :=
      foldl_choice_mem min_choice _ _
    · rw [he]
      exact widen h.first
    · exact joined he
  · obtain he | he : (g.join ls sps).last = g.last ∨ (g.join ls sps).last ∈ ls.map (·.last) ++ sps.map (·.last) :=
      foldl_choice_mem max_choice _ _
    · rw [he]
      exact widen h.last
    · exact joined he

theorem growGroup_tight (n : Nat) {g : SpanGroup} (h : g.Tight) (ls : List LocalRecord) (sps : List Span) :
    (growGroup n g ls sps).1.Tight := by
  induction n generalizing g ls sps with
  | zero => exact h
  | succ n ih =>
    unfold growGroup
    dsimp only
    split
    · exact h
    · exact ih (h.join _ _) _ _

/-- A group that grows keeps the local records it has. -/
theorem growGroup_locals_prefix (n : Nat) (g : SpanGroup) (ls : List LocalRecord) (sps : List Span) :
    g.locals <+: (growGroup n g ls sps).1.locals := by
  induction n generalizing g ls sps with
  | zero => exact List.prefix_rfl
  | succ n ih =>
    unfold growGroup
    dsimp only
    split
    · exact List.prefix_rfl
    · exact .trans (show g.locals <+: (g.join _ _).locals from List.prefix_append _ _) (ih _ _ _)

/-- A span far from all the others stays alone unless a local record joins it. -/
theorem growGroup_alone (n : Nat) {sp : Span} (ls : List LocalRecord) {sps : List Span}
    (hfar : ∀ x ∈ sps, near sp.first sp.last x.first x.last = false) (h : (growGroup n (.ofSpan sp) ls sps).1.locals = []) :
    (growGroup n (.ofSpan sp) ls sps).1 = .ofSpan sp := by
  cases n with
  | zero => rfl
  | succ n =>
    have hnone : sps.filter (fun x => near sp.first sp.last x.first x.last) = [] := by
      rw [List.filter_eq_nil_iff]
      exact fun x hx => by rw [hfar x hx]; exact Bool.false_ne_true
    unfold growGroup at h ⊢
    simp only [List.partition_eq_filter_filter, SpanGroup.ofSpan, hnone, List.isEmpty_nil, Bool.and_true] at h ⊢
    split at h
    next he => rw [if_pos he]
    next he =>
      have hprefix := growGroup_locals_prefix n (SpanGroup.join ⟨sp.first, sp.last, [], [sp]⟩
        (ls.filter fun r => near sp.first sp.last r.first r.last) []) (ls.filter (not ∘ fun r => near sp.first sp.last r.first r.last))
        (sps.filter (not ∘ fun x => near sp.first sp.last x.first x.last))
      rw [h] at hprefix
      exact absurd (List.isEmpty_iff.2 (List.prefix_nil.1 hprefix)) he

/-- Each group is as tight as its members, and with no local record among them it holds the span it was opened with alone. -/
theorem gatherGroups_tight (n : Nat) (sps : List Span) (ls : List LocalRecord)
    (hfar : sps.Pairwise fun p q => near p.first p.last q.first q.last = false) :
    ∀ g ∈ (gatherGroups n sps ls).1, g.Tight ∧ (g.locals = [] → g.spans.length = 1) := by
  induction n generalizing sps ls with
  | zero => exact nofun
  | succ n ih =>
    cases sps with
    | nil => exact nofun
    | cons sp sps =>
      obtain ⟨hsp, hsps⟩ := List.pairwise_cons.1 hfar
      have hopen : (SpanGroup.ofSpan sp).Tight := ⟨.inl ⟨sp, List.mem_singleton_self sp, rfl⟩, .inl ⟨sp, List.mem_singleton_self sp, rfl⟩⟩
      have hleft := (growGroup_perm (ls.length + sps.length) (.ofSpan sp) ls sps).2.symm
      unfold gatherGroups
      refine List.forall_mem_cons.2 ⟨⟨growGroup_tight _ hopen ls sps, fun h => by rw [growGroup_alone _ ls hsp h]; rfl⟩, ih _ _ ?_⟩
      have hall := hleft.pairwise (R := fun p q => near p.first p.last q.first q.last = false) hfar
        fun {p q} h => by rw [near_comm]; exact h
      exact (List.pairwise_append.1 hall).2.1

/-! ### The id tried first (R140) -/

/-- Among 17 ids from the counter on one is free while at most 16 records are live, and the free id found has none before it. -/
theorem Watch.freeId_first (w : Watch) (h : w.locals.length ≤ 16) : ∃ n : Nat, n ≤ 16 ∧ w.freeId = some ((w.idCounter + n) % 256)
    ∧ (∀ x ∈ w.locals, x.id ≠ some ((w.idCounter + n) % 256))
    ∧ ∀ m : Nat, m < n → ∃ x ∈ w.locals, x.id = some ((w.idCounter + m) % 256) := by
  have hfree : ∃ m, m ≤ 16 ∧ ∀ x ∈ w.locals, x.id ≠ some ((w.idCounter + m) % 256) := by
    by_contra hc
    push Not at hc
    have hsub : (List.range 17).map (fun m => some ((w.idCounter + m) % 256)) ⊆ w.locals.map (·.id) := fun i hi => by
      obtain ⟨m, hm, rfl⟩ := List.mem_map.1 hi
      obtain ⟨x, hx, hid⟩ := hc m (Nat.le_of_lt_succ (List.mem_range.1 hm))
      exact List.mem_map.2 ⟨x, hx, hid⟩
    have hnodup : ((List.range 17).map fun m => some ((w.idCounter + m) % 256)).Nodup := by
      refine List.Nodup.map_on (fun i hi j hj hij => ?_) List.nodup_range
      have hi := List.mem_range.1 hi
      have hj := List.mem_range.1 hj
      have hij := Option.some.inj hij
      omega
    have hle := (List.subperm_of_subset hnodup hsub).length_le
    rw [List.length_map, List.length_map, List.length_range] at hle
    omega
  obtain ⟨m, hm, hfree⟩ := hfree
  obtain ⟨n, hn⟩ := Option.isSome_iff_exists.1 (List.find?_isSome (xs := List.range 256)
    (p := fun i => w.locals.all fun x => decide (x.id ≠ some ((w.idCounter + i) % 256))).2
      ⟨m, List.mem_range.2 (by omega), by simpa using hfree⟩)
  obtain ⟨hid, -, hbefore⟩ := List.find?_range_eq_some.1 hn
  refine ⟨n, Nat.le_of_not_lt fun hlt => ?_, ?_, by simpa using hid, fun i hi => by simpa using hbefore i hi⟩
  · obtain ⟨x, hx, he⟩ : ∃ x ∈ w.locals, x.id = some ((w.idCounter + m) % 256) := by simpa using hbefore m (hm.trans_lt hlt)
    exact hfree x hx he
  · unfold freeId
    rw [List.find?_map]
    exact congrArg (Option.map fun i => (w.idCounter + i) % 256) hn

end Sys2Proof.Machine

/-! The evaluation of a section with one span or none, and at most two local records, at the completion of a sweep in RUN. -/

namespace Sys2Proof.Machine

/-! ### What the evaluation sees and changes -/

/-- Whether the span of a record intersects that of a peer record. -/
def Watch.sees (w : Watch) (x : LocalRecord) : Bool := w.peers.any fun p => decide (max x.first p.first ≤ min x.last p.last)

theorem Watch.corroborates_eq (w : Watch) (x : LocalRecord) : w.corroborates x.first x.last = w.sees x := by
  simp only [corroborates, intersects_natCast, sees]

/-- Group A with a telegram produced: it is queued where there is room. -/
def queuedA (a : List Telegram) (t : Telegram) : List Telegram := if decide (4 ≤ a.length) then a else a ++ [t]

/-- The owed-telegram list with a telegram produced: it is owed where group A is full. -/
def owingA (a owed : List Telegram) (t : Telegram) : List Telegram := if decide (4 ≤ a.length) then owed ++ [t] else owed

/-- A state in the course of an evaluation: its station control, watch unit, group A and recorder, with a line on which nothing begins. -/
structure State.Shows (e : State) (c : Control) (w : Watch) (a : List Telegram) (rc : Recorder) : Prop where
  ctrl     : e.ctrl = c
  watch    : e.watch = w
  groupA   : e.line.groupA = a
  recorder : e.recorder = rc
  waits    : e.line.Waits

/-- The table without its local records. -/
def State.withoutLocals (e : State) : State := e.onWatch fun w => { w with locals := [] }

namespace State.Shows
variable {s e : State} {c : Control} {w : Watch} {a : List Telegram} {rc : Recorder} {x : LocalRecord} {t : Telegram} {n i : Nat}

theorem onWatch (h : e.Shows c w a rc) (f : Watch → Watch) : (e.onWatch f).Shows c (f w) a rc :=
  ⟨h.ctrl, congrArg f h.watch, h.groupA, h.recorder, h.waits⟩

theorem withoutLocals (h : e.Shows c w a rc) : e.withoutLocals.Shows c { w with locals := [] } a rc := h.onWatch _

theorem whileRun (h : e.Shows c w a rc) (hr : c.station = .run) (f : State → State) : whileRun f e = f e :=
  whileRun_run e f (by rw [h.ctrl]; exact hr)

theorem record {k : ErrKind} (h : e.Shows s.ctrl w a s.recorder) (hn : ¬ s.ctrl.setup.fatal k) :
    (record k e).Shows s.ctrl w a (record k s).recorder := by
  have hn' : ¬ e.ctrl.setup.fatal k := by rw [h.ctrl]; exact hn
  rw [record_eq_recorder hn']
  exact ⟨h.ctrl, h.watch, h.groupA, record_recorder_congr h.recorder (congrArg _ h.ctrl) hn', h.waits⟩

/-! #### Alerts (R144, R147, R149) -/

/-- An ALERT is queued, or owed, and then a RAISE marks its record. -/
theorem produceA (h : e.Shows c w a rc) (ht : t.isDrained = false) : (produceA t e).Shows c
    (if decide (4 ≤ a.length) then { w.setOwed t true with owed := w.owed ++ [t] } else w) (queuedA a t) rc := by
  obtain rfl := h.groupA
  by_cases hfull : 4 ≤ e.line.groupA.length
  · have howe : Machine.produceA t e = owe t e := by
      rw [Machine.produceA, hasRoom_a_full hfull, ht, Bool.false_and, if_neg Bool.false_ne_true, if_neg Bool.false_ne_true]
    rw [howe, queuedA, decide_eq_true hfull, if_pos rfl, if_pos rfl]
    exact h.onWatch fun w => { w.setOwed t true with owed := w.owed ++ [t] }
  · rw [produceA_room t (Nat.lt_of_not_le hfull) h.waits, queuedA, decide_eq_false hfull]
    exact ⟨h.ctrl, h.watch, rfl, h.recorder, h.waits⟩

/-- A record that has left the table, its RAISE not owed, has its END produced. -/
theorem endRecord (h : e.Shows c w a rc) (hi : x.id = some i) (ho : x.owed = false) : (endRecord n x e).Shows c
    { w with owed := owingA a w.owed (x.alert i true n) } (queuedA a (x.alert i true n)) rc := by
  have hproduce : Machine.endRecord n x e = Machine.produceA (x.alert i true n) e := by simp [Machine.endRecord, hi, ho]
  have hwatch : (if decide (4 ≤ a.length) then
        { w.setOwed (x.alert i true n) true with owed := w.owed ++ [x.alert i true n] } else w)
      = { w with owed := owingA a w.owed (x.alert i true n) } := by
    rw [setOwed_of_none w true (by rfl), owingA]
    split <;> rfl
  rw [hproduce, ← hwatch]
  exact h.produceA rfl

/-- A record that has left the table with its RAISE owed has that withdrawn. -/
theorem withdraw (h : e.Shows s.ctrl w a s.recorder) (hi : x.id = some i) (ho : x.owed = true)
    (hn : ¬ s.ctrl.setup.fatal .txDropped) : (Machine.endRecord n x e).Shows s.ctrl
      { w with owed := w.owed.filter fun t => !t.isRaiseOf i } a (Machine.record .txDropped s).recorder := by
  have hrecord : Machine.endRecord n x e
      = Machine.record .txDropped (e.onWatch fun w => { w with owed := w.owed.filter fun t => !t.isRaiseOf i }) := by
    simp [Machine.endRecord, hi, ho]
  rw [hrecord]
  exact (h.onWatch _).record hn

/-! #### Records of an empty table (R139, R140, R143) -/

theorem putLocal (h : e.Shows c w a rc) (hl : w.locals = []) : (putLocal x e).Shows c { w with locals := [x] } a rc := by
  have hput := h.onWatch fun w => { w with locals := insertLocal x w.locals }
  rw [hl] at hput
  exact hput

/-- A record whose count has not reached its threshold waits. -/
theorem confirmOrWait_waits (h : e.Shows c w a rc) (hl : w.locals = [])
    (hc : ¬ (if w.sees x then 1 else c.setup.watchItem.confirm) ≤ x.confirm) :
    (confirmOrWait n x e).Shows c { w with locals := [x] } a rc := by
  rw [← h.watch, ← h.ctrl, ← Watch.corroborates_eq] at hc
  rw [show confirmOrWait n x e = Machine.putLocal x e from if_neg hc]
  exact h.putLocal hl

/-- A record whose count has reached its threshold is RAISED under the counter's id, and its RAISE produced. -/
theorem confirmOrWait_raises (h : e.Shows c w a rc) (hl : w.locals = [])
    (hc : (if w.sees x then 1 else c.setup.watchItem.confirm) ≤ x.confirm) :
    let id := w.idCounter % 256
    let y := { x with state := .raised, id := some id, corroborated := x.corroborated || w.sees x }
    (confirmOrWait n x e).Shows c
      { locals := [{ y with owed := x.owed || decide (4 ≤ a.length) }], peers := w.peers, idCounter := (id + 1) % 256
        owed := owingA a w.owed (y.alert id false n) } (queuedA a (y.alert id false n)) rc := by
  intro id y
  have hid : w.freeId = some id := by
    obtain ⟨m, -, hm, -, hbefore⟩ := w.freeId_first (by rw [hl]; exact Nat.zero_le _)
    obtain rfl : m = 0 := Nat.eq_zero_of_not_pos fun hpos => by
      obtain ⟨z, hz, -⟩ := hbefore 0 hpos
      rw [hl] at hz
      exact List.not_mem_nil hz
    rw [hm]
    rfl
  have hraise : confirmOrWait n x e = Machine.produceA (y.alert id false n)
      ((Machine.putLocal y e).onWatch fun w => { w with idCounter := (id + 1) % 256 }) := by
    unfold confirmOrWait
    simp only [Watch.corroborates_eq, h.watch, h.ctrl, hid]
    exact if_pos hc
  have hproduced := ((h.putLocal (x := y) hl).onWatch fun w => { w with idCounter := (id + 1) % 256 }).produceA
    (t := y.alert id false n) rfl
  rw [hraise]
  convert hproduced using 1
  cases hfull : decide (4 ≤ a.length) <;> simp [owingA, hfull, setOwed_eq, Telegram.raises, LocalRecord.alert, LocalRecord.owes, y]

theorem agePeers (h : e.Shows c w a rc) : (agePeers e).Shows c { w with peers := w.agedPeers } a rc := h.onWatch _

/-- A RAISED or EASING record that was matched is RAISED, and corroborated where a peer record intersects it. -/
theorem advanceMerged (h : e.Shows c w a rc) (hl : w.locals = []) (hs : x.state ≠ .pending) : (advanceMerged n x e).Shows c
    { w with locals := [{ x with state := .raised, corroborated := x.corroborated || w.sees x }] } a rc := by
  have hput : Machine.advanceMerged n x e
      = Machine.putLocal { x with state := .raised, corroborated := x.corroborated || w.sees x } e := by
    rw [← Watch.corroborates_eq, ← h.watch, Machine.advanceMerged]
    cases hx : x.state
    · exact absurd hx hs
    · rfl
    · rfl
  rw [hput]
  exact h.putLocal hl

/-- The one record of the table taken out. -/
theorem erase (h : e.Shows c w a rc) (hl : w.locals = [x]) :
    (e.onWatch fun w => { w with locals := w.locals.erase x }).Shows c { w with locals := [] } a rc := by
  have herase : w.locals.erase x = [] := by simp [hl]
  rw [← herase]
  exact h.onWatch _

/-- The one record of the table made EASING. -/
theorem ease (h : e.Shows c w a rc) (hl : w.locals = [x]) (hc : ¬ c.setup.watchItem.clearCount ≤ i) :
    (easeRecord n i x e).Shows c { w with locals := [{ x with state := .easing, clearCount := i }] } a rc := by
  have hmap : (w.locals.map fun z => if z = x then { x with state := .easing, clearCount := i } else z)
      = [{ x with state := .easing, clearCount := i }] := by simp [hl]
  rw [← h.ctrl] at hc
  rw [← hmap, easeRecord, if_neg hc]
  exact h.onWatch _

end State.Shows

/-- A record clear for CLEAR_COUNT sections leaves the table and ends. -/
theorem easeRecord_ends {e : State} {x : LocalRecord} {i n : Nat} (hc : e.ctrl.setup.watchItem.clearCount ≤ i) :
    easeRecord n i x e = endRecord n x (e.onWatch fun w => { w with locals := w.locals.erase x }) := if_pos hc

/-- A record without an id ends in silence. -/
theorem endRecord_silent {e : State} {x : LocalRecord} {n : Nat} (h : x.id = none) : endRecord n x e = e := by simp only [endRecord, h]

/-- A PENDING record that was matched counts. -/
theorem advanceMerged_pending {x : LocalRecord} (hs : x.state = .pending) (n : Nat) (e : State) :
    advanceMerged n x e = confirmOrWait n { x with confirm := x.confirm + 1 } e := by
  simp only [advanceMerged, hs]

/-! ### The records a group merges into (R138, R139) -/

section
variable {p : Span} {x y : LocalRecord} {ls : List LocalRecord} {n : Nat}

/-- A record that takes a span in, its state not yet moved. -/
def LocalRecord.takes (x : LocalRecord) (p : Span) (n : Nat) : LocalRecord :=
  { x with first := min x.first p.first, last := max x.last p.last, clearCount := 0
           minClearance := min x.minClearance p.clearance, lastSection := n }

theorem merged_single : ((SpanGroup.ofSpan p).join [x] []).merged n x = x.takes p n := by
  have hstate : mergedState [x] = x.state := by unfold mergedState; cases hx : x.state <;> simp [hx]
  simp [SpanGroup.merged, SpanGroup.join, SpanGroup.ofSpan, LocalRecord.takes, hstate, min_comm, max_comm]

/-- Two records that take a span in together, under the first one's name, their states not yet moved. -/
def LocalRecord.joint (x y : LocalRecord) (p : Span) (n : Nat) : LocalRecord :=
  { x with first := min (min x.first y.first) p.first, last := max (max x.last y.last) p.last
           confirm := max x.confirm y.confirm, clearCount := 0
           minClearance := min (min x.minClearance y.minClearance) p.clearance
           firstSection := min x.firstSection y.firstSection, lastSection := n
           corroborated := x.corroborated || y.corroborated }

theorem merged_pair (h : ls = [x, y] ∨ ls = [y, x]) :
    ((SpanGroup.ofSpan p).join ls []).merged n x = { x.joint y p n with state := mergedState ls } := by
  obtain rfl | rfl := h <;> simp [SpanGroup.merged, SpanGroup.join, SpanGroup.ofSpan, LocalRecord.joint, min_comm, min_left_comm,
    max_comm, max_left_comm, Bool.or_comm]
end

/-! ### One group (R137 to R139) -/

section
variable {e : State} {p : Span} {x y : LocalRecord} {ls : List LocalRecord} {bins : List BinRecord} {g : SpanGroup} {n : Nat}

/-- A record is near a span. -/
def LocalRecord.meets (x : LocalRecord) (p : Span) : Prop := p.first ≤ x.last + 2 ∧ x.first ≤ p.last + 2

/-- One span and records that are all near it are one group. -/
theorem gatherGroups_meeting (hne : ls ≠ []) (hnear : ∀ x ∈ ls, x.meets p) :
    gatherGroups 1 [p] ls = ([(SpanGroup.ofSpan p).join ls []], []) := by
  have hall : ls.filter (fun x => near p.first p.last x.first x.last) = ls :=
    List.filter_eq_self.2 fun x hx => near_iff.2 ((hnear x hx).symm)
  have hrest : ls.filter (not ∘ fun x => near p.first p.last x.first x.last) = [] :=
    List.filter_eq_nil_iff.2 fun x hx => by simp [near_iff.2 ((hnear x hx).symm)]
  have hstop : ∀ (m : Nat) (g : SpanGroup), growGroup m g [] [] = (g, [], []) := fun m g => by cases m <;> rfl
  obtain ⟨z, zs, rfl⟩ := List.exists_cons_of_ne_nil hne
  simp only [gatherGroups, List.length_nil, Nat.add_zero, List.length_cons, growGroup, List.partition_eq_filter_filter]
  simp [SpanGroup.ofSpan, hall, hrest, hstop]

/-- With one span and no local record, the span alone is new. -/
theorem evaluateSection_new (hp : spansOf bins = [p]) (hl : e.watch.locals = []) (hr : e.ctrl.station = .run) :
    evaluateSection n bins e = whileRun agePeers (createLocal n p e) := by
  have hgroups : gatherGroups 1 [p] [] = ([.ofSpan p], []) := rfl
  simp only [evaluateSection, hp, hl, List.length_singleton, hgroups, List.foldl_cons, List.foldl_nil, whileRun_run e _ hr,
    updateGroup, SpanGroup.ofSpan, List.isEmpty_nil, List.filter_cons_of_pos, List.filter_nil, List.flatMap_cons, List.flatMap_nil,
    List.append_nil]

/-- With one span and records that are all near it, their group is updated. -/
theorem evaluateSection_matched (hp : spansOf bins = [p]) (hne : e.watch.locals ≠ []) (hnear : ∀ x ∈ e.watch.locals, x.meets p)
    (hr : e.ctrl.station = .run) :
    evaluateSection n bins e = whileRun agePeers (updateGroup n ((SpanGroup.ofSpan p).join e.watch.locals []) e) := by
  have hlocals : ((SpanGroup.ofSpan p).join e.watch.locals []).locals.isEmpty = false := List.isEmpty_eq_false_iff.2 hne
  simp [evaluateSection, hp, gatherGroups_meeting hne hnear, whileRun_run e _ hr, hlocals]

/-- Without a span, the one record is unmatched. -/
theorem evaluateSection_unmatched (hp : spansOf bins = []) (hl : e.watch.locals = [x]) (hr : e.ctrl.station = .run) :
    evaluateSection n bins e = whileRun agePeers (moveUnmatched n bins x e) := by
  simp [evaluateSection, hp, hl, gatherGroups, whileRun_run e _ hr]

theorem updateGroup_single (hl : e.watch.locals = [x]) (hg : g.locals = [x]) (hr : e.ctrl.station = .run) :
    updateGroup n g e = advanceMerged n (g.merged n x) e.withoutLocals := by
  have hout : (e.onWatch fun w => { w with locals := w.locals.filter fun z => !([x].contains z) }) = e.withoutLocals := by
    simp [State.withoutLocals, State.onWatch, hl]
  simp only [updateGroup, hg, hout, pickKept, List.erase_cons_head, List.foldr_nil, List.filter_nil, List.foldl_nil]
  exact whileRun_run _ _ hr

/-- Of two records matched together the one that comes first is kept, and the other ends. -/
theorem updateGroup_pair (hl : e.watch.locals = [x, y] ∨ e.watch.locals = [y, x]) (hg : g.locals = e.watch.locals)
    (hxy : x.keptBefore y = true) (hyx : y.keptBefore x = false) (hr : e.ctrl.station = .run) :
    updateGroup n g e = whileRun (advanceMerged n (g.merged n x)) (endRecord n y e.withoutLocals) := by
  have hne : y ≠ x := fun h => by rw [h] at hxy hyx; exact absurd (hxy.symm.trans hyx) (by simp)
  have hkept : ∀ r rest, e.watch.locals = r :: rest → pickKept r rest = x ∧ (r :: rest).erase x = [y] := by
    intro r rest h
    obtain hl | hl := hl
    all_goals
      rw [hl] at h
      obtain ⟨rfl, rfl⟩ := List.cons.inj h
      simp [pickKept, hxy, hyx, hne]
  have hout : (e.onWatch fun w => { w with locals := w.locals.filter fun z => !(e.watch.locals.contains z) }) = e.withoutLocals := by
    simp [State.withoutLocals, State.onWatch]
  have hend : ([y].filter fun z : LocalRecord => z.id.isSome).foldl (fun s z => whileRun (endRecord n z) s) e.withoutLocals
      = endRecord n y e.withoutLocals := by
    cases hid : y.id with
    | none => simp [endRecord, hid]
    | some i => simpa [hid] using whileRun_run e.withoutLocals (endRecord n y) hr
  cases hls : e.watch.locals with
  | nil => simp [hls] at hl
  | cons r rest =>
    obtain ⟨hpick, herase⟩ := hkept r rest hls
    rw [hls] at hg hout
    simp only [updateGroup, hg, hpick, herase, hout, List.foldr_cons, List.foldr_nil, insertById, hend]

/-- One record matched takes the span in, and its state moves. -/
theorem evaluateSection_single (hp : spansOf bins = [p]) (hl : e.watch.locals = [x]) (hx : x.meets p) (hr : e.ctrl.station = .run) :
    evaluateSection n bins e = whileRun agePeers (advanceMerged n (x.takes p n) e.withoutLocals) := by
  rw [evaluateSection_matched hp (by simp [hl]) (by simpa [hl] using hx) hr, hl, updateGroup_single hl rfl hr, merged_single]

/-- Two records matched together: one ends, and the other takes its place and the span in. -/
theorem evaluateSection_pair (hp : spansOf bins = [p]) (hl : e.watch.locals = [x, y] ∨ e.watch.locals = [y, x]) (hx : x.meets p)
    (hy : y.meets p) (hxy : x.keptBefore y = true) (hyx : y.keptBefore x = false) (hr : e.ctrl.station = .run) :
    evaluateSection n bins e = whileRun agePeers (whileRun
      (advanceMerged n { x.joint y p n with state := mergedState e.watch.locals }) (endRecord n y e.withoutLocals)) := by
  have hnear : ∀ z ∈ e.watch.locals, z.meets p := by obtain h | h := hl <;> simp [h, hx, hy]
  rw [evaluateSection_matched hp (by obtain h | h := hl <;> simp [h]) hnear hr, updateGroup_pair hl rfl hxy hyx hr, merged_pair hl]

theorem createLocal_room (h : e.watch.locals.length + e.watch.peers.length < 16) : createLocal n p e = confirmOrWait n
    { first := p.first, last := p.last, state := .pending, confirm := 1, clearCount := 0, minClearance := p.clearance
      firstSection := n, lastSection := n, id := none, corroborated := false, owed := false } e := if_neg (Nat.not_le.2 h)

theorem createLocal_full (h : 16 ≤ e.watch.locals.length + e.watch.peers.length) : createLocal n p e = record .watchFull e := if_pos h
end

/-! ### A record not matched (R141) -/

section
variable {e : State} {x : LocalRecord} {bins : List BinRecord} {n : Nat}

theorem moveUnmatched_unseen (h : x.viewed bins = []) : moveUnmatched n bins x e = e := by simp [moveUnmatched, h]

theorem moveUnmatched_pending (h : x.viewed bins ≠ []) (hs : x.state = .pending) :
    moveUnmatched n bins x e = e.onWatch fun w => { w with locals := w.locals.erase x } := by
  simp [moveUnmatched, h, hs]

/-- A viewed bin below HYST holds a RAISED or EASING record. -/
theorem moveUnmatched_held (h : ∃ c ∈ x.viewed bins, c < (e.ctrl.setup.watchItem.hyst : Int)) (hs : x.state ≠ .pending) :
    moveUnmatched n bins x e = e := by
  obtain ⟨c, hc, hlow⟩ := h
  have hall : ((x.viewed bins).all fun c => decide ((e.ctrl.setup.watchItem.hyst : Int) ≤ c)) = false :=
    List.all_eq_false.2 ⟨c, hc, by simpa using hlow⟩
  unfold moveUnmatched
  cases hx : x.state
  · exact absurd hx hs
  · simp [hall]
  · simp [hall]

/-- A RAISED or EASING record with no viewed bin below HYST has one clear section more. -/
theorem moveUnmatched_eases (h : x.viewed bins ≠ []) (hall : ∀ c ∈ x.viewed bins, (e.ctrl.setup.watchItem.hyst : Int) ≤ c)
    (hs : x.state ≠ .pending) :
    moveUnmatched n bins x e = easeRecord n (if x.state = .raised then 1 else x.clearCount + 1) x e := by
  have hall : ((x.viewed bins).all fun c => decide ((e.ctrl.setup.watchItem.hyst : Int) ≤ c)) = true := by simpa using hall
  unfold moveUnmatched
  cases hx : x.state
  · exact absurd hx hs
  · simp [h, hall]
  · simp [h, hall]
end

/-! ### The completion of a sweep in RUN (R42, R95, R135) -/

section
variable {s : State} {k : Nat} {r : SectionRecord} {w : Watch} {a : List Telegram} {rc : Recorder} {x : LocalRecord}

/-- GAP_EXPIRY leaves a watch unit, group A and a recorder. -/
def State.GapLeaves (s : State) (w : Watch) (a : List Telegram) (rc : Recorder) : Prop :=
  ∃ t : State, exec .gapExpiry s = .next t ∧ t.watch = w ∧ t.line.groupA = a ∧ t.recorder = rc

/-- A record is sent one EDGE for each neighbour. -/
theorem edgesFor_length (u : Setup) (r : SectionRecord) (n : Nat) : (r.edgesFor u).length = (gapEdges u n).length := by
  simp [SectionRecord.edgesFor, Setup.edgesTo, gapEdges]

/-- A sweep's completion leaves what the evaluation of its section leaves, where each EDGE finds room in group B. -/
theorem Completing.leaves (h : Completing s k r) (hroom : s.line.groupB.length + (gapEdges s.ctrl.setup r.number).length ≤ 8)
    (he : ∀ e : State, e.Shows s.ctrl s.watch s.line.groupA s.recorder → (evaluateSection r.number r.bins e).Shows s.ctrl w a rc) :
    s.GapLeaves w a rc := by
  have hdrop : s.line.droppedB (r.edgesFor s.ctrl.setup) = 0 := by
    rw [Line.droppedB_eq, edgesFor_length s.ctrl.setup r r.number]
    omega
  have hsent : sendEdges r (s.sweepEnded r) = (s.sweepEnded r).sentEdges (r.edgesFor s.ctrl.setup) :=
    sendEdges_sent h.run (.inl h.waits) fun hd => absurd hdrop (Nat.ne_of_gt hd)
  have hrecorder : ((record .txDropped)^[s.line.droppedB (r.edgesFor s.ctrl.setup)] (s.sweepEnded r)).recorder = s.recorder := by
    rw [hdrop]
    rfl
  refine ⟨_, by rw [exec_gapExpiry_last h.live h.gap h.last, completeSweep_alone h.alone h.sweeping, settleRecord, hsent], ?_⟩
  rw [startReport_watch, startReport_groupA, startReport_recorder, whileRun_run _ _ (by exact h.run)]
  obtain ⟨-, hwatch, hgroupA, hrec, -⟩ := he
    (((s.sweepEnded r).sentEdges (r.edgesFor s.ctrl.setup)).onStore fun st =>
      st.modify r.number (SectionRecord.applyHeldEdges s.ctrl.setup s.ctrl.ownNumber.toNat))
    ⟨rfl, rfl, rfl, hrecorder, .inl h.waits⟩
  exact ⟨hwatch, hgroupA, hrec⟩

/-- The last step of the evaluation: the peer records age. -/
theorem State.Shows.aged {e : State} {c : Control} (h : e.Shows c w a rc) (hr : c.station = .run) :
    (Machine.whileRun Machine.agePeers e).Shows c { w with peers := w.agedPeers } a rc := by
  rw [h.whileRun hr]
  exact h.agePeers

/-- GAP_EXPIRY leaves a record that has counted, alone in the table: RAISED at its threshold, and waiting below it (R140). -/
def State.GapCounts (s : State) (n : Nat) (x : LocalRecord) : Prop :=
  if (if s.watch.sees x then 1 else s.ctrl.setup.watchItem.confirm) ≤ x.confirm then
    (let id := s.watch.idCounter % 256
     let y := { x with state := .raised, id := some id, corroborated := x.corroborated || s.watch.sees x }
     s.GapLeaves
       { locals := [{ y with owed := x.owed || decide (4 ≤ s.line.groupA.length) }], peers := s.watch.agedPeers
         idCounter := (id + 1) % 256, owed := owingA s.line.groupA s.watch.owed (y.alert id false n) }
       (queuedA s.line.groupA (y.alert id false n)) s.recorder)
  else s.GapLeaves { s.watch with locals := [x], peers := s.watch.agedPeers } s.line.groupA s.recorder

namespace Completing
variable {p : Span} {y : LocalRecord} {owed : List Telegram} {ls : List LocalRecord}
variable (h : Completing s k r) (hroom : s.line.groupB.length + (gapEdges s.ctrl.setup r.number).length ≤ 8)
include h

theorem station_run {e : State} (he : e.Shows s.ctrl s.watch s.line.groupA s.recorder) : e.ctrl.station = .run := by
  rw [he.ctrl]
  exact h.run

include hroom

theorem counts (he : ∀ e : State, e.Shows s.ctrl s.watch s.line.groupA s.recorder →
    ∃ e' : State, e'.Shows s.ctrl { s.watch with locals := [] } s.line.groupA s.recorder
      ∧ evaluateSection r.number r.bins e = whileRun agePeers (confirmOrWait r.number x e')) : s.GapCounts r.number x := by
  unfold State.GapCounts
  by_cases hc : (if s.watch.sees x then 1 else s.ctrl.setup.watchItem.confirm) ≤ x.confirm
  · rw [if_pos hc]
    refine h.leaves hroom fun e hs => ?_
    obtain ⟨e', hs', heval⟩ := he e hs
    rw [heval]
    exact (hs'.confirmOrWait_raises rfl hc).aged h.run
  · rw [if_neg hc]
    refine h.leaves hroom fun e hs => ?_
    obtain ⟨e', hs', heval⟩ := he e hs
    rw [heval]
    exact (hs'.confirmOrWait_waits rfl hc).aged h.run

/-- A span alone, in a table with room, is a new record that has counted once (R142). -/
theorem new (hp : spansOf r.bins = [p]) (hl : s.watch.locals = []) (hcap : s.watch.peers.length < 16) : s.GapCounts r.number
    { first := p.first, last := p.last, state := .pending, confirm := 1, clearCount := 0, minClearance := p.clearance
      firstSection := r.number, lastSection := r.number, id := none, corroborated := false, owed := false } := by
  refine h.counts hroom fun e he => ⟨e, ?_, ?_⟩
  · rw [← hl]
    exact he
  · rw [evaluateSection_new hp (he.watch ▸ hl) (h.station_run he), createLocal_room (by rw [he.watch, hl]; simpa using hcap)]

/-- A span alone, in a full table, is recorded as WATCH_FULL (R142). -/
theorem new_full (hp : spansOf r.bins = [p]) (hl : s.watch.locals = []) (hcap : 16 ≤ s.watch.peers.length)
    (hn : ¬ s.ctrl.setup.fatal .watchFull) :
    s.GapLeaves { s.watch with peers := s.watch.agedPeers } s.line.groupA (record .watchFull s).recorder := by
  refine h.leaves hroom fun e he => ?_
  rw [evaluateSection_new hp (he.watch ▸ hl) (h.station_run he), createLocal_full (by rw [he.watch, hl]; simpa using hcap)]
  exact (he.record hn).aged h.run

/-- A PENDING record matched takes the span in and counts (R139). -/
theorem matched_pending (hp : spansOf r.bins = [p]) (hl : s.watch.locals = [x]) (hxp : x.meets p) (hx : x.state = .pending) :
    s.GapCounts r.number { x.takes p r.number with confirm := x.confirm + 1 } := by
  refine h.counts hroom fun e he => ⟨_, he.withoutLocals, ?_⟩
  rw [evaluateSection_single hp (he.watch ▸ hl) hxp (h.station_run he), advanceMerged_pending (x := x.takes p r.number) hx]
  rfl

/-- A RAISED or EASING record matched takes the span in and is RAISED (R139). -/
theorem matched_announced (hp : spansOf r.bins = [p]) (hl : s.watch.locals = [x]) (hxp : x.meets p) (hx : x.state ≠ .pending) :
    s.GapLeaves { s.watch with
      locals := [{ x.takes p r.number with
        state := .raised, corroborated := x.corroborated || s.watch.sees (x.takes p r.number) }]
      peers := s.watch.agedPeers } s.line.groupA s.recorder := by
  refine h.leaves hroom fun e he => ?_
  rw [evaluateSection_single hp (he.watch ▸ hl) hxp (h.station_run he)]
  exact (he.withoutLocals.advanceMerged (x := x.takes p r.number) rfl hx).aged h.run

/-- A record not matched moves as its viewed bins say (R141). -/
theorem unmatched (hp : spansOf r.bins = []) (hl : s.watch.locals = [x])
    (hmove : ∀ e : State, e.Shows s.ctrl s.watch s.line.groupA s.recorder →
      (moveUnmatched r.number r.bins x e).Shows s.ctrl { s.watch with locals := ls, owed := owed } a rc) :
    s.GapLeaves { s.watch with locals := ls, peers := s.watch.agedPeers, owed := owed } a rc := by
  refine h.leaves hroom fun e he => ?_
  rw [evaluateSection_unmatched hp (he.watch ▸ hl) (h.station_run he)]
  exact (hmove e he).aged h.run

/-- Two PENDING records without ids matched together: the lower one takes the span in with the joint values, and counts (R138, R139). -/
theorem merged_pending (hp : spansOf r.bins = [p]) (hl : s.watch.locals = [x, y] ∨ s.watch.locals = [y, x]) (hxp : x.meets p)
    (hyp : y.meets p) (hxi : x.id = none) (hyi : y.id = none) (hx : x.state = .pending) (hy : y.state = .pending)
    (hfirst : x.first < y.first) :
    s.GapCounts r.number { x.joint y p r.number with confirm := max x.confirm y.confirm + 1 } := by
  have hxy : x.keptBefore y = true := by simpa [LocalRecord.keptBefore, hxi, hyi] using hfirst.le
  have hyx : y.keptBefore x = false := by simpa [LocalRecord.keptBefore, hxi, hyi] using hfirst
  have hstate : mergedState s.watch.locals = x.state := by
    rw [hx, mergedState_pending_iff]
    obtain h | h := hl <;> simp [h, hx, hy]
  refine h.counts hroom fun e he => ⟨_, he.withoutLocals, ?_⟩
  rw [evaluateSection_pair hp (he.watch ▸ hl) hxp hyp hxy hyx (h.station_run he), he.watch, hstate, endRecord_silent hyi,
    he.withoutLocals.whileRun h.run, advanceMerged_pending (by exact hx)]
  rfl

/-- Two records matched together, the first RAISED or EASING: it is RAISED with the joint values, and the other ends (R138, R139). -/
theorem merged_announced (hp : spansOf r.bins = [p]) (hl : s.watch.locals = [x, y] ∨ s.watch.locals = [y, x]) (hxp : x.meets p)
    (hyp : y.meets p) (hxy : x.keptBefore y = true) (hyx : y.keptBefore x = false) (hx : x.state ≠ .pending)
    (hend : ∀ e : State, e.Shows s.ctrl { s.watch with locals := [] } s.line.groupA s.recorder →
      (endRecord r.number y e).Shows s.ctrl { s.watch with locals := [], owed := owed } a rc) :
    s.GapLeaves { s.watch with
      locals := [{ x.joint y p r.number with
        state := .raised, corroborated := (x.joint y p r.number).corroborated || s.watch.sees (x.joint y p r.number) }]
      peers := s.watch.agedPeers, owed := owed } a rc := by
  have hstate : mergedState s.watch.locals ≠ .pending := fun hm =>
    hx ((mergedState_pending_iff _).1 hm x (by obtain h | h := hl <;> simp [h]))
  refine h.leaves hroom fun e he => ?_
  have hended := hend _ he.withoutLocals
  rw [evaluateSection_pair hp (he.watch ▸ hl) hxp hyp hxy hyx (h.station_run he), he.watch, hended.whileRun h.run]
  exact (hended.advanceMerged (x := { x.joint y p r.number with state := mergedState s.watch.locals }) rfl hstate).aged h.run

end Completing
end

/-! ### The statement (R135 to R144, R147, R149) -/

/-- The spans of a section, as its bin records give them. -/
theorem spansOf_bins (bins : List BinRecord) (hascend : bins.Pairwise fun x y => x.bin < y.bin)
    (hclear : ∀ b ∈ bins, b.intrusion = true → b.cMin.isSome = true) :
    (spansOf bins).Pairwise (fun p q => p.last + 3 ≤ q.first)
      ∧ (∀ p ∈ spansOf bins, p.first ≤ p.last ∧ (∃ b ∈ bins, b.intrusion = true ∧ b.bin = p.first)
          ∧ (∃ b ∈ bins, b.intrusion = true ∧ b.bin = p.last))
      ∧ (∀ b ∈ bins, b.intrusion = true → ∃ p ∈ spansOf bins, p.first ≤ b.bin ∧ b.bin ≤ p.last)
      ∧ (∀ p ∈ spansOf bins, (∃ b ∈ bins, b.intrusion = true ∧ p.first ≤ b.bin ∧ b.bin ≤ p.last ∧ b.cMin = some p.clearance)
          ∧ ∀ b ∈ bins, b.intrusion = true → p.first ≤ b.bin → b.bin ≤ p.last → ∀ c, b.cMin = some c → p.clearance ≤ c)
      ∧ (∀ p ∈ spansOf bins, ∀ b ∈ bins, b.intrusion = true → p.first ≤ b.bin → b.bin < p.last →
          ∃ c ∈ bins, c.intrusion = true ∧ b.bin < c.bin ∧ c.bin ≤ b.bin + 2) := by
  obtain ⟨hapart, hspans, hcovers⟩ := spansOf_spec hascend
  have hbin : ∀ b ∈ bins, b.intrusion = true → ∃ c, (b.bin, c) ∈ intrusionBins bins := fun b hb hi => by
    obtain ⟨c, hc⟩ := Option.isSome_iff_exists.1 (hclear b hb hi)
    exact ⟨c, mem_intrusionBins.2 ⟨b, hb, hi, rfl, hc⟩⟩
  have hend : ∀ {n : Nat}, (∃ x ∈ intrusionBins bins, x.1 = n) → ∃ b ∈ bins, b.intrusion = true ∧ b.bin = n := by
    rintro n ⟨x, hx, rfl⟩
    obtain ⟨b, hb, hi, hn, -⟩ := mem_intrusionBins.1 hx
    exact ⟨b, hb, hi, hn⟩
  refine ⟨hapart, fun p hp => ⟨(hspans p hp).ordered, hend (hspans p hp).first, hend (hspans p hp).last⟩, fun b hb hi => ?_,
    fun p hp => ⟨?_, fun b hb hi hf hl c hc => ?_⟩, fun p hp b hb hi hf hl => ?_⟩
  · obtain ⟨c, hx⟩ := hbin b hb hi
    exact hcovers _ hx
  · obtain ⟨x, hx, hf, hl, hc⟩ := (hspans p hp).attains
    obtain ⟨b, hb, hi, hn, hm⟩ := mem_intrusionBins.1 hx
    exact ⟨b, hb, hi, hn ▸ hf, hn ▸ hl, hc ▸ hm⟩
  · exact (hspans p hp).lowest (b.bin, c) (mem_intrusionBins.2 ⟨b, hb, hi, rfl, hc⟩) hf hl
  · obtain ⟨c, hx⟩ := hbin b hb hi
    obtain ⟨y, hy, hlow, hhigh⟩ := (hspans p hp).next _ hx hf hl
    obtain ⟨d, hd, hid, hn, -⟩ := mem_intrusionBins.1 hy
    exact ⟨d, hd, hid, hn ▸ hlow, hn ▸ hhigh⟩

/-- Settles O40: spans and groups by their induction, and the evaluation by what it meets: a span alone, a record matched, a record not
matched, and two records matched together. -/
theorem spansOfSection : Obligations.SpansOfSection := by
  refine ⟨spansOf_bins, fun spans locals hapart hspans _ => ?_, Watch.freeId_first, fun s k r h hroom => ?_⟩
  · intro groups unmatched far
    obtain ⟨hgathered, -⟩ := gatherGroups_gathered spans.length spans locals (Nat.le_refl _) hspans
    have htight := gatherGroups_tight spans.length spans locals (hapart.imp fun h => near_eq_false.2 (.inl h))
    refine ⟨hgathered.spans, hgathered.locals, hgathered.apart.imp near_eq_false.1, fun g hg => ?_⟩
    obtain ⟨hends, halone⟩ := htight g hg
    exact ⟨(hgathered.hulls g hg).spans, (hgathered.hulls g hg).locals, hends.first, hends.last,
      fun x hx => near_eq_false.1 (hgathered.left g hg x hx), halone⟩
  · intro w peers seen alert full queued owing leaves counted dropped
    refine ⟨fun p hp hl => ⟨h.new hroom hp hl, h.new_full hroom hp hl⟩, fun p x hp hl hlow hhigh =>
      ⟨h.matched_pending hroom hp hl ⟨hlow, hhigh⟩, h.matched_announced hroom hp hl ⟨hlow, hhigh⟩⟩, fun x hp hl => ?_,
      fun p x y hp hl hxl hxh hyl hyh => ?_⟩
    · intro viewed count held gone
      refine ⟨fun hv => ?_, fun hv hx => ?_, fun hlow hx => ?_, fun hv hall hx => ?_⟩
      · exact h.unmatched hroom hp hl fun e he => by rw [moveUnmatched_unseen hv]; exact he
      · exact h.unmatched hroom hp hl fun e he => by rw [moveUnmatched_pending hv hx]; exact he.erase hl
      · exact h.unmatched hroom hp hl fun e he => by rw [moveUnmatched_held (by rw [he.ctrl]; exact hlow) hx]; exact he
      · have heases : ∀ {e : State}, e.Shows s.ctrl s.watch s.line.groupA s.recorder →
            moveUnmatched r.number r.bins x e = easeRecord r.number count x e := fun he =>
          moveUnmatched_eases hv (by rw [he.ctrl]; exact hall) hx
        refine ⟨fun hcount => ?_, fun hcount id hid => ⟨fun ho => ?_, fun ho hnf => ?_⟩⟩
        · exact h.unmatched hroom hp hl fun e he => by rw [heases he]; exact he.ease hl (Nat.not_le.2 hcount)
        · exact h.unmatched hroom hp hl fun e he => by
            rw [heases he, easeRecord_ends (by rw [he.ctrl]; exact hcount)]; exact (he.erase hl).endRecord hid ho
        · exact h.unmatched hroom hp hl fun e he => by
            rw [heases he, easeRecord_ends (by rw [he.ctrl]; exact hcount)]; exact (he.erase hl).withdraw hid ho hnf
    · refine ⟨h.merged_pending hroom hp hl ⟨hxl, hxh⟩ ⟨hyl, hyh⟩, fun i hi hx => ⟨fun hyi => ?_, fun j hj hij => ?_⟩⟩
      · exact h.merged_announced hroom hp hl ⟨hxl, hxh⟩ ⟨hyl, hyh⟩ (by simp [LocalRecord.keptBefore, hi, hyi])
          (by simp [LocalRecord.keptBefore, hi, hyi]) hx fun e he => by rw [endRecord_silent hyi]; exact he
      · have hxy : x.keptBefore y = true := by simpa [LocalRecord.keptBefore, hi, hj] using hij.le
        have hyx : y.keptBefore x = false := by simpa [LocalRecord.keptBefore, hi, hj] using hij
        exact ⟨fun ho => h.merged_announced hroom hp hl ⟨hxl, hxh⟩ ⟨hyl, hyh⟩ hxy hyx hx fun e he => he.endRecord hj ho,
          fun ho hnf => h.merged_announced hroom hp hl ⟨hxl, hxh⟩ ⟨hyl, hyh⟩ hxy hyx hx fun e he => he.withdraw hj ho hnf⟩

end Sys2Proof.Machine

/-! What setup stores stays in its ranges, and the marks name it: each item's record as it is read, the setup that storing one leaves, and
the bitmap beside it. -/

namespace Sys2Proof.Machine

/-! ### Each record as it is read is in its ranges (R172) -/

section
variable (p : List Byte)

theorem readSurvey_inRange : (readSurvey p).inRange := by
  have htof := word16At_le p 4
  simp only [Survey.inRange, readSurvey, clampNat]
  omega

theorem readHead_inRange : (readHead p).inRange := by
  have hmount := word16At_le p 1
  simp only [Head.inRange, readHead, clampInt]
  omega

theorem readElementCalib_inRange (off : Nat) : (readElementCalib p off).inRange := by
  have hangle := word16At_le p off
  simp only [ElementCalib.inRange, readElementCalib, clampInt]
  omega

theorem readCalib_inRange (j : Fin 8) : (readCalib p)[j].inRange := by
  simpa [readCalib] using readElementCalib_inRange p (1 + 5 * j.val)

theorem readSweep_inRange : (readSweep p).inRange := by
  have hamp := byteAt_le p 5
  simp only [SweepItem.inRange, readSweep, clampNat]
  omega

/-- A neighbour is a station number, or none (R190). -/
theorem readNeighbour_le (i : Nat) : ∀ n ∈ readNeighbour p i, n ≤ 15 := by
  intro n hn
  unfold readNeighbour at hn
  split at hn
  next h => cases hn; exact h
  next => cases hn

theorem readBinRange_inRange (i : Nat) : (readBinRange p i).inRange := by
  simp only [BinRange.inRange, readBinRange, clampNat]
  omega

theorem readZones_inRange : (readZones p).inRange := by
  refine ⟨readNeighbour_le p 1, readNeighbour_le p 6, readBinRange_inRange p 2, readBinRange_inRange p 7,
    readBinRange_inRange p 11, ?_⟩
  simp only [readZones, clampNat]
  by_cases h : byteAt p 15 = 0
  · simp only [h, if_true]; omega
  · simp only [h, if_false]; refine ⟨by omega, nofun, by omega⟩

theorem readSegment_inRange : (readSegment p).inRange := by
  simp only [Segment.inRange, readSegment, clampNat]
  omega

theorem readExclusion_inRange : (readExclusion p).inRange := ⟨word16At_le p 1, word16At_le p 3⟩

theorem readWatch_inRange : (readWatch p).inRange := by
  simp only [WatchItem.inRange, readWatch, clampNat]
  omega

theorem readAux_inRange : (readAux p).inRange := by
  simp only [Aux.inRange, readAux, clampNat, clampInt]
  omega

theorem readLine_inRange : (readLine p).inRange := by
  simp only [LineItem.inRange, readLine, clampNat]
  omega

end

/-! ### What storing an item can do (R171) -/

section
variable {u : Setup} {p : List Byte}

/-- A payload whose number names an item stores that item's record and nothing else: the cases, item by item. -/
theorem storeItem_cases {P : Setup → Prop} (hitem : (itemLength (byteAt p 0)).isSome = true)
    (survey : byteAt p 0 = 1 → P { u with survey := some (readSurvey p) })
    (head : byteAt p 0 = 2 → P { u with head := some (readHead p) })
    (calib : ∀ k : Fin 8, byteAt p 0 = 3 + k.val → P { u with calib := u.calib.set k.val (some (readCalib p)) k.isLt })
    (sweep : byteAt p 0 = 11 → P { u with sweep := some (readSweep p) })
    (zones : byteAt p 0 = 12 → P { u with zones := some (readZones p) })
    (envelope : ∀ j : Fin 12, byteAt p 0 = 13 + j.val →
      P { u with envelope := u.envelope.set j.val (some (readSegment p)) j.isLt })
    (exclusion : ∀ w : Fin 4, byteAt p 0 = 25 + w.val →
      P { u with exclusion := u.exclusion.set w.val (some (readExclusion p)) w.isLt })
    (watch : byteAt p 0 = 29 → P { u with watch := some (readWatch p) })
    (aux : byteAt p 0 = 30 → P { u with aux := some (readAux p) })
    (line : byteAt p 0 = 31 → P { u with line := some (readLine p) })
    (faults : byteAt p 0 = 32 → P { u with faults := some (readFaults p) }) : P (u.storeItem p) := by
  obtain ⟨hlow, hhigh⟩ := itemLength_isSome hitem
  have hnumber : byteAt p 0 = 1 ∨ byteAt p 0 = 2 ∨ (3 ≤ byteAt p 0 ∧ byteAt p 0 < 11) ∨ byteAt p 0 = 11 ∨ byteAt p 0 = 12
      ∨ (13 ≤ byteAt p 0 ∧ byteAt p 0 < 25) ∨ (25 ≤ byteAt p 0 ∧ byteAt p 0 < 29)
      ∨ byteAt p 0 = 29 ∨ byteAt p 0 = 30 ∨ byteAt p 0 = 31 ∨ byteAt p 0 = 32 := by omega
  obtain h | h | h | h | h | h | h | h | h | h | h := hnumber
  · rw [storeItem_survey h]; exact survey h
  · rw [storeItem_head h]; exact head h
  · have hk : byteAt p 0 = 3 + (⟨byteAt p 0 - 3, by omega⟩ : Fin 8).val := by simp only; omega
    rw [storeItem_calib _ hk]; exact calib _ hk
  · rw [storeItem_sweep h]; exact sweep h
  · rw [storeItem_zones h]; exact zones h
  · have hj : byteAt p 0 = 13 + (⟨byteAt p 0 - 13, by omega⟩ : Fin 12).val := by simp only; omega
    rw [storeItem_envelope _ hj]; exact envelope _ hj
  · have hw : byteAt p 0 = 25 + (⟨byteAt p 0 - 25, by omega⟩ : Fin 4).val := by simp only; omega
    rw [storeItem_exclusion _ hw]; exact exclusion _ hw
  · rw [storeItem_watch h]; exact watch h
  · rw [storeItem_aux h]; exact aux h
  · rw [storeItem_line h]; exact line h
  · rw [storeItem_faults h]; exact faults h

/-- What holds of every present entry, and of the one put in, holds of every present entry afterwards. -/
theorem set_some_forall {α : Type} {n : Nat} {xs : Vector (Option α) n} {P : α → Prop} {a : α} (k : Fin n)
    (h : ∀ j : Fin n, ∀ v ∈ xs[j], P v) (ha : P a) : ∀ j : Fin n, ∀ v ∈ (xs.set k.val (some a) k.isLt)[j], P v := by
  intro j v hv
  by_cases hkj : k = j
  · subst hkj
    have : a = v := by simpa using hv
    exact this ▸ ha
  · have hne : k.val ≠ j.val := fun e => hkj (Fin.ext e)
    exact h j v (by simpa [Vector.getElem_set_ne, hne] using hv)

/-- Storing an item leaves every stored field in its range (R172). -/
theorem storeItem_inRange (h : SetupInRange u) (hitem : (itemLength (byteAt p 0)).isSome = true) : SetupInRange (u.storeItem p) := by
  apply storeItem_cases hitem
  case survey => exact fun _ => { h with survey := by rintro _ ⟨⟩; exact readSurvey_inRange p }
  case head => exact fun _ => { h with head := by rintro _ ⟨⟩; exact readHead_inRange p }
  case calib => exact fun k _ => { h with calib := set_some_forall k h.calib (readCalib_inRange p) }
  case sweep => exact fun _ => { h with sweep := by rintro _ ⟨⟩; exact readSweep_inRange p }
  case zones => exact fun _ => { h with zones := by rintro _ ⟨⟩; exact readZones_inRange p }
  case envelope => exact fun j _ => { h with envelope := set_some_forall j h.envelope (readSegment_inRange p) }
  case exclusion => exact fun w _ => { h with exclusion := set_some_forall w h.exclusion (readExclusion_inRange p) }
  case watch => exact fun _ => { h with watch := by rintro _ ⟨⟩; exact readWatch_inRange p }
  case aux => exact fun _ => { h with aux := by rintro _ ⟨⟩; exact readAux_inRange p }
  case line => exact fun _ => { h with line := by rintro _ ⟨⟩; exact readLine_inRange p }
  case faults => exact fun _ => { h with }

/-- An entry put into a list of items is present, and the other entries are as they were. -/
theorem set_some_isSome {α : Type} {n k i : Nat} {xs : Vector (Option α) n} {a : α} (hk : k < n) (hi : i < n) :
    ((xs.set k (some a) hk)[i]).isSome = (decide (i = k) || xs[i].isSome) := by
  by_cases h : k = i
  · subst h; simp
  · simp [Vector.getElem_set_ne hk hi h, Ne.symm h]

/-- After an item is stored, the items stored are those from before and that one. -/
theorem holds_storeItem (hitem : (itemLength (byteAt p 0)).isSome = true) (n : Nat) :
    (u.storeItem p).holds n = (decide (n = byteAt p 0) || u.holds n) := by
  apply storeItem_cases (P := fun v => v.holds n = (decide (n = byteAt p 0) || u.holds n)) hitem
  case calib =>
    intro k h
    by_cases hc : 3 ≤ n ∧ n < 11
    · simp (disch := omega) only [Setup.holds, if_neg, dif_neg, dif_pos hc, set_some_isSome,
        show n = byteAt p 0 ↔ n - 3 = k.val by omega]
    · simp only [Setup.holds, dif_neg hc, show n ≠ byteAt p 0 by omega, decide_false, Bool.false_or]
  case envelope =>
    intro j h
    by_cases hc : 13 ≤ n ∧ n < 25
    · simp (disch := omega) only [Setup.holds, if_neg, dif_neg, dif_pos hc, set_some_isSome,
        show n = byteAt p 0 ↔ n - 13 = j.val by omega]
    · simp only [Setup.holds, dif_neg hc, show n ≠ byteAt p 0 by omega, decide_false, Bool.false_or]
  case exclusion =>
    intro w h
    by_cases hc : 25 ≤ n ∧ n < 29
    · simp (disch := omega) only [Setup.holds, if_neg, dif_neg, dif_pos hc, set_some_isSome,
        show n = byteAt p 0 ↔ n - 25 = w.val by omega]
    · simp only [Setup.holds, dif_neg hc, show n ≠ byteAt p 0 by omega, decide_false, Bool.false_or]
  all_goals
    intro h
    by_cases hn : n = byteAt p 0
    · simp [Setup.holds, hn, h]
    · simp [Setup.holds, hn, show n ≠ _ from h ▸ hn]

/-- The bitmap with the item's mark set marks exactly the items stored afterwards (R171). -/
theorem storeItem_marked {marks : BitVec 32} (h : ∀ k : Nat, k < 32 → marks.getLsbD k = u.holds (k + 1))
    (hitem : (itemLength (byteAt p 0)).isSome = true) (k : Nat) (hk : k < 32) :
    (marks ||| BitVec.twoPow 32 (byteAt p 0 - 1)).getLsbD k = (u.storeItem p).holds (k + 1) := by
  obtain ⟨hlow, -⟩ := itemLength_isSome hitem
  rw [holds_storeItem hitem, ← h k hk, BitVec.getLsbD_or, BitVec.getLsbD_twoPow, Bool.or_comm]
  rw [← Bool.decide_and, decide_eq_decide.2 (show _ ↔ k + 1 = byteAt p 0 by omega)]

end

/-! ### What the operations keep -/

/-- Only station control holds the setup, and its moves do not touch it. -/
theorem keptByStation_setupSound : KeptByStation SetupSound where
  conv _ _ h := ⟨h.ranges, h.marks⟩
  seq _ _ h := ⟨h.ranges, h.marks⟩
  echo _ _ h := ⟨h.ranges, h.marks⟩
  store _ _ h := ⟨h.ranges, h.marks⟩
  watch _ _ h := ⟨h.ranges, h.marks⟩
  line _ _ h := ⟨h.ranges, h.marks⟩
  odo _ _ h := ⟨h.ranges, h.marks⟩
  rcd s k h := ⟨by rw [record_setup]; exact h.ranges, by rw [record_setup, record_marks]; exact h.marks⟩
  env _ _ h _ := ⟨h.ranges, h.marks⟩
  halt _ h _ := ⟨h.ranges, h.marks⟩
  run _ h _ := ⟨h.ranges, h.marks⟩
  fail _ _ h _ := ⟨h.ranges, h.marks⟩

theorem storeSetup_setupSound {p : List Byte} {s : State} (h : SetupSound s) (hitem : (itemLength (byteAt p 0)).isSome = true) :
    SetupSound (storeSetup p s) := by
  rw [storeSetup_eq]
  exact ⟨storeItem_inRange h.ranges hitem, storeItem_marked h.marks hitem⟩

theorem handleSetup_setupSound (x : Received) {s : State} (h : SetupSound s) : SetupSound (handleSetup x s) := by
  unfold handleSetup
  split
  next hitem => exact storeSetup_setupSound h hitem.2
  next => exact keptByStation_setupSound.rcd _ _ h

/-- Settles O57: SETUP stores in range and marks what it stores, reset empties both, and nothing else touches the setup. -/
theorem setupKept : Obligations.SetupKept := by
  have K := keptByStation_setupSound
  refine keptByEveryStep_of_exec (fun _ _ h => ⟨h.ranges, h.marks⟩) fun c s t h he => ?_
  exact kept_exec K.toKeptByOdometry (fun _ => K.halt) (fun _ _ _ => kept_handleStart K) (fun _ x _ => handleSetup_setupSound x)
    (fun _ _ _ => kept_handleRestart K.toKeptByOdometry fun _ h => ⟨h.ranges, h.marks⟩)
    (fun _ _ _ => kept_handleClear fun _ _ h => ⟨h.ranges, h.marks⟩) (fun straps pair _ => afterReset_setupSound straps pair s)
    (fun _ => ⟨h.ranges, h.marks⟩) h he

end Sys2Proof.Machine

/-! The model's reset state, and what the station does while reset is asserted. -/

namespace Sys2Proof.Machine

/-- While reset is asserted, only its end and a further assertion have an effect (log 6). -/
theorem exec_of_resetAsserted {c : Instr} {s : State} (h : s.resetAsserted = true) (hasserted : c ≠ .resetAsserted)
    (hend : ∀ (straps : BitVec 4) (pair : Phase), c ≠ .powerOrPinReset straps pair) : exec c s = .next s := by
  cases c
  case powerOrPinReset straps pair => exact absurd rfl (hend straps pair)
  case resetAsserted => exact absurd rfl hasserted
  all_goals exact live_reset s _ h

/-- Settles O4: the reset state is what power or pin reset leaves with straps 0 and phase pair 00, sound by O3. -/
theorem resetReleasesAndIsSound : Obligations.ResetReleasesAndIsSound :=
  ⟨(powerOnState 0 ⟨false, false⟩ State.reset).2, fun _ => rfl, fun _ _ => exec_of_resetAsserted⟩

end Sys2Proof.Machine

/-! The moves of the station state: what the commands of station control do to it, and that every other command leaves it, unless an
error kind that is FATAL and unmasked is recorded. -/

namespace Sys2Proof.Machine

/-! ### The moves R170 lists -/

section
variable {c : Instr} {x : Station}

theorem Station.mayMove_refl : x.mayMove c x := by cases x <;> trivial

theorem Station.mayMove_fault : x.mayMove c .fault := by cases x <;> trivial

theorem Station.mayMove_restart : x.mayMove .restart .config := by cases x <;> simp [Station.mayMove]

theorem Station.mayMove_reset (straps : BitVec 4) (pair : Phase) : x.mayMove (.powerOrPinReset straps pair) .config := by
  cases x <;> simp [Station.mayMove]

/-- START leads to RUN from where it leads to CONFIG or HALTED: the station was there before it. -/
theorem Station.mayMove_start_run {y : Station} (h : x.mayMove .start y) (hy : y = .config ∨ y = .halted) : x.mayMove .start .run := by
  obtain rfl | rfl := hy <;> cases x <;> simp_all [Station.mayMove]

/-- A break or the stop input leads to HALTED from where it leads to RUN: the station was in RUN before it. -/
theorem Station.mayMove_halt (hc : c = .localStop ∨ c = .breakDetected) (h : x.mayMove c .run) : x.mayMove c .halted := by
  obtain rfl | rfl := hc <;> cases x <;> simp_all [Station.mayMove]

end

/-! ### A station moved by a command -/

/-- The station stands where R170 lets a command lead it from a state, and in FAULT only if it was there before, or a kind that the
setup makes FATAL, unmasked, has been seen (R170, R182). -/
structure MovedAsListed (c : Instr) (x : Station) (u : Setup) (t : State) : Prop where
  listed : x.mayMove c t.ctrl.station
  fault  : t.ctrl.station = .fault → x = .fault ∨ ∃ k : ErrKind, u.fatal k ∧ t.recorder.kinds[k.index].seen = true

section
variable {c : Instr} {x : Station} {u : Setup} {s : State}

/-- A station that stands where it stood has moved as listed. -/
theorem MovedAsListed.of_station (h : s.ctrl.station = x) : MovedAsListed c x u s :=
  ⟨h ▸ Station.mayMove_refl, fun hf => .inl (h ▸ hf)⟩

/-- Outside FAULT only the move counts. -/
theorem MovedAsListed.of_mayMove (h : x.mayMove c s.ctrl.station) (hf : s.ctrl.station ≠ .fault) : MovedAsListed c x u s :=
  ⟨h, fun hs => absurd hs hf⟩

/-- Recording a kind leaves the station where it stands, or enters FAULT by that very kind. -/
theorem MovedAsListed.record (h : MovedAsListed c x u s) (hu : s.ctrl.setup = u) (k : ErrKind) :
    MovedAsListed c x u (record k s) := by
  obtain ⟨hseen, hstill⟩ := record_seen s k
  have stays : (Machine.record k s).ctrl.station = s.ctrl.station → MovedAsListed c x u (Machine.record k s) := fun e =>
    ⟨e ▸ h.listed, fun hf => (h.fault (e ▸ hf)).imp_right fun ⟨j, hj, hs⟩ => ⟨j, hj, hstill _ hs⟩⟩
  obtain ⟨-, e⟩ | ⟨-, e⟩ | ⟨⟨hmasked, hfatal, -⟩, e⟩ := record_cases s k
  · exact stays (by rw [e]; rfl)
  · exact stays (by rw [e]; rfl)
  · have hf : (Machine.record k s).ctrl.station = .fault := by rw [e, enterFault_ctrl]
    exact ⟨hf ▸ Station.mayMove_fault, fun _ => .inr ⟨k, ⟨hu ▸ hfatal, hu ▸ hmasked⟩, hseen⟩⟩

end

/-- What every operation but the storing of an item keeps, through a whole command: the setup, by which kinds are FATAL, and the
station moved as listed. -/
def Moving (c : Instr) (x : Station) (u : Setup) (t : State) : Prop := t.ctrl.setup = u ∧ MovedAsListed c x u t

section
variable {c : Instr} {x : Station} {u : Setup} {s : State}

theorem keptByOdometry_moving (c : Instr) (x : Station) (u : Setup) : KeptByOdometry (Moving c x u) where
  conv _ _ h := ⟨h.1, h.2.listed, h.2.fault⟩
  seq _ _ h := ⟨h.1, h.2.listed, h.2.fault⟩
  echo _ _ h := ⟨h.1, h.2.listed, h.2.fault⟩
  store _ _ h := ⟨h.1, h.2.listed, h.2.fault⟩
  watch _ _ h := ⟨h.1, h.2.listed, h.2.fault⟩
  line _ _ h := ⟨h.1, h.2.listed, h.2.fault⟩
  odo _ _ h := ⟨h.1, h.2.listed, h.2.fault⟩
  rcd s k h := ⟨(record_setup s k).trans h.1, h.2.record h.1 k⟩

theorem keptByHalt_moving (hc : c = .localStop ∨ c = .breakDetected) : KeptByHalt (Moving c x u) :=
  fun _ ⟨hu, hm⟩ hr => ⟨hu, .of_mayMove (Station.mayMove_halt hc (hr ▸ hm.listed)) nofun⟩

theorem keptByConfig_moving : KeptByConfig (Moving .restart x u) :=
  fun _ ⟨hu, _⟩ => ⟨hu, .of_mayMove Station.mayMove_restart nofun⟩

/-! ### START -/

theorem kept_startOdometry {Q : State → Prop} (K : KeptByOdometry Q) (h : Q s) : Q (startOdometry s) := by
  unfold startOdometry
  exact K.odo _ _ (kept_triggerSection K.toKeptByBlocks (K.odo _ _ h))

theorem handleStart_moving {r : Received} (h : Moving .start x u s) : Moving .start x u (handleStart r s) := by
  have K := keptByOdometry_moving .start x u
  obtain ⟨hu, hm⟩ := h
  unfold handleStart
  split
  next hs =>
    split
    next => exact K.rcd _ _ ⟨hu, hm.listed, hm.fault⟩
    next =>
      rw [enterRun_eq]
      exact kept_startOdometry K ⟨hu, .of_mayMove (Station.mayMove_start_run hm.listed (.inl hs)) nofun⟩
  next hs => exact ⟨hu, .of_mayMove (Station.mayMove_start_run hm.listed (.inr hs)) nofun⟩
  all_goals exact ⟨hu, hm⟩

/-! ### SETUP and CLEAR, which are handled where nothing is recorded before -/

/-- Recording a kind, with station control as it was, moves the station as listed. -/
theorem record_movedAsListed {t : State} (e : t.ctrl = s.ctrl) (k : ErrKind) :
    MovedAsListed c s.ctrl.station s.ctrl.setup (record k t) :=
  MovedAsListed.record (.of_station (congrArg Control.station e)) (congrArg Control.setup e) k

/-- The handler's taking moves the station as listed when the handling of the telegram does. -/
theorem takeOldest_movedAsListed {mine : Received → Bool} {act : Received → State → State}
    (hact : ∀ r t, t.ctrl = s.ctrl → MovedAsListed c s.ctrl.station s.ctrl.setup (act r t)) :
    MovedAsListed c s.ctrl.station s.ctrl.setup (takeOldest mine act s) := by
  obtain e | ⟨r, rest, -, -, e | ⟨-, e⟩ | ⟨-, -, e⟩⟩ := takeOldest_cases s mine act <;> rw [e]
  · exact .of_station rfl
  · exact .of_station rfl
  · refine record_movedAsListed ?_ _; rfl
  · exact hact r _ rfl

theorem handleSetup_movedAsListed (r : Received) :
    MovedAsListed c s.ctrl.station s.ctrl.setup (handleSetup r s) := by
  unfold handleSetup
  split
  · rw [storeSetup_eq]; exact .of_station rfl
  · exact record_movedAsListed rfl _

theorem handleClear_movedAsListed (r : Received) :
    MovedAsListed c s.ctrl.station s.ctrl.setup (handleClear r s) := by
  obtain ⟨f, e⟩ := handleClear_eq r s
  rw [e]; exact .of_station rfl

end

/-! ### The commands -/

section
variable {c : Instr} {s t : State} (he : exec c s = .next t)
include he

/-- A command that stores nothing and clears nothing keeps the setup and moves the station as listed. -/
theorem exec_moving (hsetup : c ≠ .setup) (hclear : c ≠ .clear) (hreset : ∀ (straps : BitVec 4) (pair : Phase),
    c ≠ .powerOrPinReset straps pair) : Moving c s.ctrl.station s.ctrl.setup t := by
  have K := keptByOdometry_moving c s.ctrl.station s.ctrl.setup
  have h : Moving c s.ctrl.station s.ctrl.setup s := ⟨rfl, .of_station rfl⟩
  refine kept_exec K keptByHalt_moving (fun hc => ?_) (fun hc => absurd hc hsetup) (fun hc => ?_)
    (fun hc => absurd hc hclear) (fun straps pair hc => absurd hc (hreset straps pair)) (fun _ => ⟨rfl, .of_station rfl⟩) h he
  · subst hc; exact fun _ _ => handleStart_moving
  · subst hc; exact fun _ _ => kept_handleRestart K keptByConfig_moving

theorem exec_movedAsListed : MovedAsListed c s.ctrl.station s.ctrl.setup t := by
  have hs : MovedAsListed c s.ctrl.station s.ctrl.setup s := .of_station rfl
  by_cases hreset : ∃ straps pair, c = .powerOrPinReset straps pair
  · obtain ⟨straps, pair, rfl⟩ := hreset
    cases he
    exact .of_mayMove (Station.mayMove_reset straps pair) nofun
  by_cases hsetup : c = .setup
  · subst hsetup
    exact live_next s he hs fun _ => takeOldest_movedAsListed fun r _ e => e ▸ handleSetup_movedAsListed r
  by_cases hclear : c = .clear
  · subst hclear
    exact live_next s he hs fun _ => takeOldest_movedAsListed fun r _ e => e ▸ handleClear_movedAsListed r
  exact (exec_moving he hsetup hclear fun straps pair hc => hreset ⟨straps, pair, hc⟩).2

end

/-- Settles O5: recording a kind enters FAULT by that very kind, and every other move is one of its command's own, which are listed. -/
theorem stationMovesAsListed : Obligations.StationMovesAsListed := fun _ _ _ he =>
  have hm := exec_movedAsListed he
  ⟨hm.listed, fun hs ht => (hm.fault ht).resolve_left hs⟩

end Sys2Proof.Machine

/-! The fault recorder: what a recorded kind and a CLEAR leave of it, that its attention output follows it, and its two telegrams. -/

namespace Sys2Proof.Machine

/-! ### A kind recorded (R181, R183, R184) -/

section
variable {s : State} {k : ErrKind}

/-- Recording a kind leaves the first-error record, or puts that kind into an empty one (R183). -/
theorem record_firstError (s : State) (k : ErrKind) : (record k s).recorder.firstError = s.recorder.firstError
    ∨ (record k s).recorder.firstError = some (s.recorder.firstError.getD k) := by
  obtain ⟨-, e⟩ | ⟨-, e⟩ | ⟨-, e⟩ := record_cases s k <;> rw [e]
  · exact .inl rfl
  · exact .inr rfl
  · rw [enterFault_recorder]
    exact .inr rfl

/-- A recorded count stays within its limit, and the counts of the other kinds are as before (R181). -/
theorem record_count_le (k : ErrKind) (h : ∀ j : Fin 16, s.recorder.kinds[j].count ≤ 65535) (j : Fin 16) :
    (record k s).recorder.kinds[j].count ≤ 65535 := by
  rw [record_kinds]
  by_cases hj : k.index = j
  · subst hj
    simp
  · have hne : k.index.val ≠ j.val := fun e => hj (Fin.ext e)
    simpa [Vector.getElem_set_ne, hne] using h j

/-- A CLEAR empties the kinds it names (R186). -/
theorem Recorder.clear_kinds (r : Recorder) (p : List Byte) (j : Fin 16) :
    (r.clear p).kinds[j] = if namesKind p j then ⟨false, 0⟩ else r.kinds[j] := by
  simp [Recorder.clear]

/-- A first-error record that stands after a CLEAR stood before it and names a kind that the CLEAR leaves (R186). -/
theorem Recorder.clear_firstError {r : Recorder} {p : List Byte} (h : (r.clear p).firstError = some k) :
    r.firstError = some k ∧ namesKind p k.index = false := by
  simpa [Recorder.clear, Option.filter_eq_some_iff] using h

/-! ### A station that is not in reset -/

/-- The attention output shows the first-error record and the station (R184). -/
def State.Attends (s : State) : Prop :=
  s.recorder.attention = (s.recorder.firstError.isSome || decide (s.ctrl.station = .fault))

theorem State.followAttention_attends (s : State) : s.followAttention.Attends := rfl

theorem enterFault_attends (s : State) : (enterFault s).Attends := by
  simp [State.Attends]

theorem record_attends (k : ErrKind) (h : s.Attends) : (record k s).Attends := by
  obtain ⟨-, e⟩ | ⟨-, e⟩ | ⟨-, e⟩ := record_cases s k <;> rw [e]
  · exact h
  · exact State.followAttention_attends _
  · exact enterFault_attends _

/-- The recorder is sound and reset is not asserted: what every command keeps from one end of a reset to the next assertion. -/
structure RecorderLive (s : State) : Prop where
  awake     : s.resetAsserted = false
  counts    : ∀ k : Fin 16, s.recorder.kinds[k].count ≤ 65535
  firstSeen : ∀ k : ErrKind, s.recorder.firstError = some k → s.recorder.kinds[k.index].seen = true
  attends   : s.Attends

theorem RecorderSound.live (h : RecorderSound s) (hr : s.resetAsserted = false) : RecorderLive s :=
  ⟨hr, h.counts, h.firstSeen, by have ha := h.attention; rwa [hr] at ha⟩

theorem RecorderLive.sound (h : RecorderLive s) : RecorderSound s :=
  ⟨h.counts, h.firstSeen, by rw [h.awake]; exact h.attends⟩

namespace RecorderLive

/-- The recorder and the reset input as they were, and the station in FAULT exactly if it was: sound as before. -/
theorem of_recorder {t : State} (h : RecorderLive s) (hreset : t.resetAsserted = s.resetAsserted)
    (hrecorder : t.recorder = s.recorder) (hfault : t.ctrl.station = .fault ↔ s.ctrl.station = .fault) : RecorderLive t where
  awake := hreset.trans h.awake
  counts := hrecorder ▸ h.counts
  firstSeen := hrecorder ▸ h.firstSeen
  attends := by
    rw [State.Attends, hrecorder, decide_eq_decide.2 hfault]
    exact h.attends

/-- The first-error record filled by the kind just recorded names a kind that is now seen; one filled before, a kind still seen. -/
theorem record (h : RecorderLive s) (k : ErrKind) : RecorderLive (record k s) where
  awake := (record_resetAsserted s k).trans h.awake
  counts := record_count_le k h.counts
  firstSeen j hj := by
    obtain ⟨hnow, hstill⟩ := record_seen s k
    obtain e | e := record_firstError s k <;> rw [e] at hj
    · exact hstill _ (h.firstSeen j hj)
    · cases hf : s.recorder.firstError with
      | none => rw [hf] at hj; cases hj; exact hnow
      | some f => rw [hf] at hj; cases hj; exact hstill _ (h.firstSeen f hf)
  attends := record_attends k h.attends

/-- A CLEAR leaves no first-error record that names a kind it has emptied (R186). -/
theorem handleClear (h : RecorderLive s) (x : Received) : RecorderLive (handleClear x s) := by
  unfold Machine.handleClear
  refine ⟨by simpa using h.awake, fun k => ?_, fun k hk => ?_, State.followAttention_attends _⟩
  · rw [State.followAttention_kinds, State.onRecorder_recorder, Recorder.clear_kinds]
    split
    · exact Nat.zero_le _
    · exact h.counts k
  · rw [State.followAttention_firstError, State.onRecorder_recorder] at hk
    obtain ⟨hfirst, hleft⟩ := Recorder.clear_firstError hk
    rw [State.followAttention_kinds, State.onRecorder_recorder, Recorder.clear_kinds, hleft, if_neg Bool.false_ne_true]
    exact h.firstSeen k hfirst

end RecorderLive

/-- The recorder's soundness reads the recorder, the reset input, and of the station whether it is FAULT: no move but recording's own
entry to FAULT leads into it, and RESTART, which leads out of it, has the attention output follow. -/
theorem keptByStation_recorderLive : KeptByStation RecorderLive where
  conv _ _ h := h.of_recorder rfl rfl .rfl
  seq _ _ h := h.of_recorder rfl rfl .rfl
  echo _ _ h := h.of_recorder rfl rfl .rfl
  store _ _ h := h.of_recorder rfl rfl .rfl
  watch _ _ h := h.of_recorder rfl rfl .rfl
  line _ _ h := h.of_recorder rfl rfl .rfl
  odo _ _ h := h.of_recorder rfl rfl .rfl
  rcd _ k h := h.record k
  env _ _ h _ := h.of_recorder rfl rfl .rfl
  halt _ h hs := h.of_recorder rfl rfl (by simp [hs])
  run _ h hs := h.of_recorder rfl rfl (by obtain hs | hs := hs <;> simp [hs])
  fail _ _ h _ := h.of_recorder rfl rfl .rfl

theorem keptByItem_recorderLive : KeptByItem RecorderLive := fun _ _ h _ _ => h.of_recorder rfl rfl .rfl

theorem keptByConfig_recorderLive : KeptByConfig RecorderLive := fun _ h =>
  ⟨h.awake, h.counts, h.firstSeen, State.followAttention_attends _⟩

/-! ### The commands -/

/-- The assertion of reset releases the attention output and leaves what is recorded (R179, R184). -/
theorem assertReset_recorderSound (h : RecorderSound s) : RecorderSound (assertReset s) := ⟨h.counts, h.firstSeen, rfl⟩

theorem exec_recorderSound {c : Instr} {t : State} (h : RecorderSound s) (he : exec c s = .next t) : RecorderSound t := by
  by_cases hend : ∃ straps pair, c = .powerOrPinReset straps pair
  · obtain ⟨straps, pair, rfl⟩ := hend
    cases he
    exact afterReset_recorderSound straps pair s
  have hend : ∀ straps pair, c ≠ .powerOrPinReset straps pair := fun straps pair hc => hend ⟨straps, pair, hc⟩
  by_cases hasserted : c = .resetAsserted
  · subst hasserted
    cases he
    exact assertReset_recorderSound h
  cases hr : s.resetAsserted with
  | true =>
    rw [exec_of_resetAsserted hr hasserted hend] at he
    cases he
    exact h
  | false =>
    have K := keptByStation_recorderLive
    exact (kept_exec K.toKeptByOdometry (fun _ => K.halt) (fun _ _ _ => kept_handleStart K)
      (fun _ _ _ => kept_handleSetup K.toKeptByOdometry keptByItem_recorderLive)
      (fun _ _ _ => kept_handleRestart K.toKeptByOdometry keptByConfig_recorderLive) (fun _ x _ h => h.handleClear x)
      (fun straps pair hc => absurd hc (hend straps pair)) (fun hc => absurd hc hasserted) (h.live hr) he).sound
end

/-- Settles O55: outside reset every command keeps the recorder sound by the recording, clearing and attention it is made of; reset ends
with an empty recorder, and while it is asserted the attention output is released. -/
theorem recorderKept : Obligations.RecorderKept :=
  keptByEveryStep_of_exec (fun _ _ h => ⟨h.counts, h.firstSeen, h.attention⟩) fun _ _ _ h he => exec_recorderSound h he

/-! ### CLEAR and STATUS_REQ (R186, R187) -/

section
variable {s : State} {x : Received} {rest : List Received}

/-- A telegram at the front of the queue, of the command's kind, accepted and of an admitted length, is handled. -/
theorem live_takeOldest_isKind {k : Kind} {act : Received → State → State} (hl : s.resetAsserted = false)
    (hq : s.line.queue = x :: rest) (hk : x.kind = k) (ha : s.ctrl.station.accepts k = true)
    (hp : lengthAdmitted k x.payload = true) :
    live (takeOldest (Received.isKind k) act) s = .next (act x (s.withQueue rest)) := by
  subst hk
  rw [live_eq s _ hl, takeOldest_handled s _ _ x rest hq (decide_eq_true rfl) ha hp]

theorem Station.accepts_clear (y : Station) : y.accepts .clear = true := by cases y <;> rfl

theorem Station.accepts_statusReq (y : Station) : y.accepts .statusReq = true := by cases y <;> rfl

theorem exec_clear (hl : s.resetAsserted = false) (hq : s.line.queue = x :: rest) (hk : x.kind = .clear)
    (hp : x.payload.length = 2) : exec .clear s = .next (handleClear x (s.withQueue rest)) :=
  live_takeOldest_isKind hl hq hk (Station.accepts_clear _) (decide_eq_true hp)

theorem exec_statusReq (hl : s.resetAsserted = false) (hq : s.line.queue = x :: rest) (hk : x.kind = .statusReq)
    (hp : x.payload = []) : exec .statusReq s = .next (handleStatusReq x (s.withQueue rest)) :=
  live_takeOldest_isKind hl hq hk (Station.accepts_statusReq _) (by rw [hp]; rfl)

theorem handleStatusReq_queues (h : s.line.groupA.length < 4) :
    handleStatusReq x s = enqueue .a ⟨x.sender, .status (statusBody s)⟩ s := if_pos ((s.hasRoom_iff .a).2 h)

theorem handleStatusReq_drops (h : 4 ≤ s.line.groupA.length) : handleStatusReq x s = record .txDropped s := by
  rw [handleStatusReq, hasRoom_a_full h, if_neg Bool.false_ne_true]

end

/-- Settles O51: both telegrams are accepted in every station state; the room in group A decides between the STATUS and its drop. -/
theorem clearAndStatusReq : Obligations.ClearAndStatusReq := by
  intro x rest s hl hq
  refine ⟨fun hk hp => ?_, fun hk hp hroom => ?_, fun hk hp hfull => ?_⟩
  · exact exec_clear hl hq hk hp
  · rw [exec_statusReq hl hq hk hp, handleStatusReq_queues (s := s.withQueue rest) hroom]
    rfl
  · rw [exec_statusReq hl hq hk hp, handleStatusReq_drops (s := s.withQueue rest) hfull]

end Sys2Proof.Machine

/-! Every command answers a next state and keeps the queue of waiting commands; a step takes the queue's front; the named roundings. -/

namespace Sys2Proof.Machine

/-! ### The queue of waiting commands -/

theorem live_answers (f : State → State) (s : State) : ∃ t, live f s = .next t := ⟨_, rfl⟩

/-- Reset and RESET_ASSERTED take effect in every state; every other command acts through `live`, which never stops. -/
theorem exec_answers (c : Instr) (s : State) : ∃ t, exec c s = .next t := by
  cases c with
  | powerOrPinReset straps pair => exact ⟨afterReset straps pair s, rfl⟩
  | resetAsserted => exact ⟨assertReset s, rfl⟩
  | _ => exact live_answers _ s

/-- No operation takes a command from the queue or puts one there. -/
theorem keptByStation_pending (q : List Instr) : KeptByStation fun s => s.pending = q where
  conv _ _ h := h
  seq _ _ h := h
  echo _ _ h := h
  store _ _ h := h
  watch _ _ h := h
  line _ _ h := h
  odo _ _ h := h
  rcd s k h := (record_pending s k).trans h
  env _ _ h _ := h
  halt _ h _ := h
  run _ h _ := h
  fail _ _ h _ := h

section
variable {s : State}

/-- The queue is what a command does not touch: reset carries it over too. -/
theorem exec_pending {c : Instr} {t : State} (he : exec c s = .next t) : t.pending = s.pending := by
  have K := keptByStation_pending s.pending
  exact kept_exec K.toKeptByOdometry (fun _ => K.halt) (fun _ _ _ => kept_handleStart K)
    (fun _ _ _ => kept_handleSetup K.toKeptByOdometry fun _ _ h _ _ => h)
    (fun _ _ _ => kept_handleRestart K.toKeptByOdometry fun _ h => h)
    (fun _ _ _ => kept_handleClear (Q := fun u => u.pending = s.pending) fun _ _ h => h)
    (fun _ _ _ => rfl) (fun _ => rfl) rfl he

theorem step_cons {c : Instr} {rest : List Instr} (h : s.pending = c :: rest) : step s = exec c { s with pending := rest } := by
  rw [step, h]

theorem step_nil (h : s.pending = []) : step s = .next s := by
  rw [step, h]

end

/-- Settles O2: every command answers, and the operations it is made of leave the queue alone. -/
theorem everyCommandCompletes : Obligations.EveryCommandCompletes := by
  intro c s
  obtain ⟨t, he⟩ := exec_answers c s
  exact ⟨t, he, exec_pending he⟩

/-- Settles O1: a command put before the queue is the one executed, on the state with that queue, and an empty queue idles. -/
theorem stepRunsFrontCommand : Obligations.StepRunsFrontCommand :=
  ⟨fun c s => step_cons (s := { s with pending := c :: s.pending }) rfl, fun _ => step_nil⟩

/-- Settles O28: the roundings by the division with remainder each of them is, and the root by its bits, highest first. -/
theorem roundingsAreNearest : Obligations.RoundingsAreNearest :=
  ⟨fun p _ hq => roundHalfAway_nearest p hq, fun p _ hq => roundHalfUp_nearest p hq, isqrt_spec⟩

end Sys2Proof.Machine

/-! The receiver and the transmission: what the header, the end, and a quiet spell of a telegram do to a reception, how a transmission is
lost, and the handler's two tests of a telegram it takes. -/

namespace Sys2Proof.Machine

/-! ### The receiver (R156 to R159) -/

section
variable {s : State} {timeout : Nat} {kept : Option Header} {h : Header}

theorem firstTransitionSeen_idle (hrx : s.line.rx = .idle) :
    firstTransitionSeen s = setRx (.receiving s.ctrl.setup.lineTimeout none) s := if_pos hrx

theorem headerEnds_readback (hrx : s.line.rx = .receiving timeout none) (htx : s.line.tx.isSome = true) : headerEnds h s = s := by
  simp only [headerEnds, hrx, htx, if_true]

theorem headerEnds_own (hrx : s.line.rx = .receiving timeout none) (htx : s.line.tx = none) (hown : h.sender = s.ctrl.ownNumber) :
    headerEnds h s = record .dupStation (setRx .idleWait s) := by
  simp [headerEnds, hrx, htx, hown]

theorem headerEnds_foreign (hrx : s.line.rx = .receiving timeout none) (htx : s.line.tx = none) (hown : h.sender ≠ s.ctrl.ownNumber) :
    headerEnds h s = setRx (if filterKeeps s.ctrl h then .receiving timeout (some h) else .idleWait) s := by
  cases hk : filterKeeps s.ctrl h <;> simp [headerEnds, hrx, htx, hown, hk]

/-- A station is a neighbour when it is configured on one side or the other. -/
theorem sideOf_isSome {u : Setup} {n : Nat} :
    (u.sideOf n).isSome = true ↔ u.neighbour .left = some n ∨ u.neighbour .right = some n := by
  by_cases hleft : u.neighbour .left = some n
  · simp [sideOf_left hleft, hleft]
  · by_cases hright : u.neighbour .right = some n
    · simp [sideOf_right hleft hright, hright]
    · simp [sideOf_none hleft hright, hleft, hright]

/-- The filter keeps a telegram for this station or for all, of a kind accepted, an EDGE only from a neighbour (R158). -/
theorem filterKeeps_iff {c : Control} : filterKeeps c h = true ↔
    (h.target.toNat = c.ownNumber.toNat ∨ h.target.toNat = 31) ∧ ∃ k, Kind.ofCode h.kind = some k ∧ c.station.accepts k = true
      ∧ (k = .edge → c.setup.neighbour .left = some h.sender.toNat ∨ c.setup.neighbour .right = some h.sender.toNat) := by
  cases hk : Kind.ofCode h.kind with
  | none => simp [filterKeeps, hk]
  | some k => simp [filterKeeps, hk, sideOf_isSome, Config.everyStation, ← imp_iff_not_or]

theorem isQuietSpell_iff {dominant : Bool} {bits : Nat} :
    isQuietSpell timeout dominant bits = true ↔ timeout ≤ bits ∧ (dominant = true → bits < 24) := by
  have hbits : decide (bits < Config.breakBits) = true ↔ bits < 24 := decide_eq_true_iff
  cases dominant <;> simp [isQuietSpell, hbits]

theorem quietSpellSeen_receiving {dominant : Bool} {bits : Nat} (hrx : s.line.rx = .receiving timeout kept) (htx : s.line.tx = none) :
    quietSpellSeen dominant bits s = if isQuietSpell timeout dominant bits then record .rxQuiet (setRx .idleWait s) else s := by
  simp only [quietSpellSeen, hrx, htx, Option.isNone_none, Bool.true_and]

/-- The end of a telegram that the filter has kept, by the outcome of its check and the room in the receive queue. -/
theorem telegramEnds_kept {k : Kind} {payload : List Byte} {check : BitVec 16} (hrx : s.line.rx = .receiving timeout (some h))
    (hk : Kind.ofCode h.kind = some k) (hp : payload.length = h.length.toNat) :
    telegramEnds payload check s =
      if checkSequence h payload ≠ check then record .rxCheck (setRx .idleWait s)
      else if 4 ≤ s.line.queue.length then record .rxOverrun (setRx .idleWait s)
      else s.onLine fun l => { l with rx := .idleWait, queue := l.queue ++ [⟨h.sender.toNat, h.target.toNat, k, payload⟩] } := by
  simp only [telegramEnds, hrx, hk, hp, if_true]
  rfl

end

/-- Settles O43: each event by the receiver's state, and a header by the filter's tests in order. -/
theorem reception : Obligations.Reception := by
  intro s hl
  refine ⟨fun hrx => ?_, fun h timeout hrx => ?_, fun dominant bits timeout kept hrx htx => ?_⟩
  · exact (live_eq s _ hl).trans (congrArg _ (firstTransitionSeen_idle hrx))
  · intro away kindKept
    have hforeign (htx : s.line.tx = none) (hown : h.sender ≠ s.ctrl.ownNumber) : exec (.headerEnd h) s
        = .next (setRx (if filterKeeps s.ctrl h then .receiving timeout (some h) else .idleWait) s) :=
      (live_eq s _ hl).trans (congrArg _ (headerEnds_foreign hrx htx hown))
    have hkeeps : filterKeeps s.ctrl h = true ↔ (h.target.toNat = s.ctrl.ownNumber.toNat ∨ h.target.toNat = 31) ∧ kindKept :=
      filterKeeps_iff
    refine ⟨fun htx => ?_, fun htx hown => ?_, fun htx hown hself hall => ?_, fun htx hown hkind => ?_,
      fun htx hown htarget hkind => ?_⟩
    · exact (live_eq s _ hl).trans (congrArg _ (headerEnds_readback hrx htx))
    · exact (live_eq s _ hl).trans (congrArg _ (headerEnds_own hrx htx hown))
    · rw [hforeign htx hown, if_neg fun hk => (hkeeps.1 hk).1.elim hself hall]
      rfl
    · rw [hforeign htx hown, if_neg fun hk => hkind (hkeeps.1 hk).2]
      rfl
    · rw [hforeign htx hown, if_pos (hkeeps.2 ⟨htarget, hkind⟩)]
      rfl
  · have hseen : exec (.quietSpell dominant bits) s
        = .next (if isQuietSpell timeout dominant bits then record .rxQuiet (setRx .idleWait s) else s) :=
      (live_eq s _ hl).trans (congrArg _ (quietSpellSeen_receiving hrx htx))
    refine ⟨fun hq => ?_, fun hq => ?_⟩
    · exact hseen.trans (congrArg _ (if_pos (isQuietSpell_iff.2 hq)))
    · exact hseen.trans (congrArg _ (if_neg (mt isQuietSpell_iff.1 hq)))

/-- Settles O44: the check first, then the room in the receive queue. -/
theorem checkSequenceEnds : Obligations.CheckSequenceEnds := by
  intro s timeout h k payload check hl hrx hk hp away
  have hend : exec (.checkSequenceEnd payload check) s = .next (telegramEnds payload check s) := live_eq s _ hl
  rw [hend, telegramEnds_kept hrx hk hp]
  refine ⟨fun hc => ?_, fun hc hfull => ?_, fun hc hroom => ?_⟩
  · rw [if_pos (Ne.symm hc)]
    rfl
  · rw [if_neg (not_not.2 hc.symm), if_pos hfull]
    rfl
  · rw [if_neg (not_not.2 hc.symm), if_neg (Nat.not_le.2 hroom)]
    rfl

/-! ### A transmission lost (R162, R163, R167) -/

section
variable {s : State} {x : Transmission}

/-- A transmission that RESTART has not condemned leaves its telegram where it stands. -/
theorem abandonTx_sending (htx : s.line.tx = some x) (hx : x.condemned = false) : abandonTx s = s.onLine fun l => { l with tx := none } :=
  abandonTx_kept s fun t ht => by obtain rfl : x = t := Option.some.inj (htx.symm.trans ht); exact hx

/-- A condemned telegram of group C leaves its group, and nothing takes its place. -/
theorem abandonTx_condemned_c (htx : s.line.tx = some x) (hx : x.condemned = true) (hg : x.group = .c) :
    abandonTx s = s.onLine fun l => { l with tx := none, groupC := l.groupC.tail } := by
  simp only [abandonTx, htx, hx, hg, if_true]
  rfl

/-- The receiver of a station that loses contention goes on with the winner's telegram (log 12). -/
theorem contentionIsLost_sending (htx : s.line.tx = some x) (hx : x.condemned = false) :
    contentionIsLost s = s.onLine fun l => { l with
      tx := none
      rx := match l.rx with
        | .receiving timeout kept => .receiving timeout kept
        | .idle | .idleWait => .receiving s.ctrl.setup.lineTimeout none } := by
  have hsome : s.line.tx.isSome = true := by rw [htx]; rfl
  rw [contentionIsLost, if_pos hsome]
  cases hrx : s.line.rx with
  | receiving timeout kept =>
    rw [abandonTx_sending htx hx]
    simp only [State.onLine, hrx]
  | idle | idleWait =>
    rw [abandonTx_sending (s := beginReception s) htx hx]
    simp only [beginReception, setRx, State.onLine, hrx]

theorem readbackMismatches_transmitting (htx : s.line.tx = some x) : readbackMismatches s =
    (abandonTx (setRx .idleWait s)).onLine fun l => { l with judging := true } :=
  if_pos (by rw [htx]; rfl)

end

/-- Settles O46: the telegram stays unless condemned; a transition tells a station of the same number only while a mismatch is judged. -/
theorem transmissionLost : Obligations.TransmissionLost := by
  intro s hl
  have hmismatch : exec .readbackMismatch s = .next (readbackMismatches s) := live_eq s _ hl
  refine ⟨fun x htx hx => ⟨?_, ?_⟩, fun x htx hx hg => ?_, fun hj => ?_, fun hj => ?_⟩
  · exact (live_eq s _ hl).trans (congrArg _ (contentionIsLost_sending htx hx))
  · rw [hmismatch, readbackMismatches_transmitting htx, abandonTx_sending (s := setRx .idleWait s) htx hx]
    rfl
  · rw [hmismatch, readbackMismatches_transmitting htx, abandonTx_condemned_c (s := setRx .idleWait s) htx hx hg]
    rfl
  · exact (live_eq s _ hl).trans (congrArg _ (if_pos hj))
  · exact (live_eq s _ hl).trans (congrArg _ (if_neg (by simp [hj])))

/-! ### The handler's tests (R158, R160, R190) -/

section
variable {s : State} {x : Received} {rest : List Received} {mine : Received → Bool} {act : Received → State → State}

theorem takeOldest_refused (hq : s.line.queue = x :: rest) (hm : mine x = true) (ha : s.ctrl.station.accepts x.kind = false) :
    takeOldest mine act s = s.withQueue rest := by
  simp [takeOldest, hq, hm, ha, State.withQueue, State.onLine]

theorem takeOldest_misfit (hq : s.line.queue = x :: rest) (hm : mine x = true) (ha : s.ctrl.station.accepts x.kind = true)
    (hp : lengthAdmitted x.kind x.payload = false) : takeOldest mine act s = record .rxCheck (s.withQueue rest) := by
  simp [takeOldest, hq, hm, ha, hp, State.withQueue, State.onLine]

/-- The kinds each station state accepts, as lists. -/
theorem Station.accepts_eq (st : Station) (k : Kind) : st.accepts k = match st with
    | .config => decide (k ∈ [Kind.setup, .start, .restart, .statusReq, .clear])
    | .run | .halted => decide (k ∈ [Kind.start, .restart, .statusReq, .clear, .drain, .edge, .alert, .setup])
    | .fault => decide (k ∈ [Kind.restart, .statusReq, .clear]) := by
  cases st <;> cases k <;> rfl

theorem lengthAdmitted_setup (p : List Byte) : lengthAdmitted .setup p =
    decide (1 ≤ p.length ∧ ∀ n ∈ itemLength (byteAt p 0), p.length = 1 + n) := by
  refine Bool.eq_iff_iff.2 (Iff.trans ?_ decide_eq_true_iff.symm)
  cases hn : itemLength (byteAt p 0) with
  | none => simp [lengthAdmitted, hn]
  | some n =>
    have hpos : p.length = 1 + n → 1 ≤ p.length := by omega
    simpa [lengthAdmitted, hn] using hpos

theorem lengthAdmitted_edge (p : List Byte) : lengthAdmitted .edge p = decide (5 ≤ p.length ∧ p.length = 5 + 4 * byteAt p 4) := by
  rw [Bool.decide_and, ← beq_eq_decide]
  rfl

end

/-- Settles O52: every one of these commands takes a telegram of its own kind through the same two tests. -/
theorem handlerTests : Obligations.HandlerTests := by
  rintro ⟨sender, target, kind, payload⟩ rest c s hl hq hc admitted accepted
  obtain ⟨⟨act, hexec⟩, hadmitted⟩ : (∃ act, exec c s = live (takeOldest (Received.isKind kind) act) s)
      ∧ admitted = lengthAdmitted kind payload := by
    simp only [List.mem_cons, Prod.mk.injEq, List.not_mem_nil, or_false] at hc
    obtain ⟨rfl, rfl⟩ | ⟨rfl, rfl⟩ | ⟨rfl, rfl⟩ | ⟨rfl, rfl⟩ | ⟨rfl, rfl⟩ | ⟨rfl, rfl⟩ | ⟨rfl, rfl⟩ := hc
    case inl => exact ⟨⟨_, rfl⟩, (lengthAdmitted_setup payload).symm⟩
    case inr.inr.inr.inl => exact ⟨⟨_, rfl⟩, (lengthAdmitted_edge payload).symm⟩
    all_goals exact ⟨⟨_, rfl⟩, rfl⟩
  have haccepted : accepted = s.ctrl.station.accepts kind := (s.ctrl.station.accepts_eq kind).symm
  rw [hexec, live_eq s _ hl, haccepted, hadmitted]
  exact ⟨fun ha => congrArg _ (takeOldest_refused hq (decide_eq_true rfl) ha),
    fun ha hp => congrArg _ (takeOldest_misfit hq (decide_eq_true rfl) ha hp)⟩

end Sys2Proof.Machine

/-! The bits of a telegram: its fields as bits, the check register and what a wrong bit leaves in it, and what a telegram's bits make of the
line. -/

namespace Sys2Proof.Machine

/-! ### The bits of a field (R155) -/

section
variable {n : Nat}

@[simp] theorem length_bitsOf (v : BitVec n) : (bitsOf v).length = n := by simp [bitsOf]

theorem bitsOf_eq_testBit (v : BitVec n) : bitsOf v = (List.range n).map fun i => v.toNat.testBit (n - 1 - i) := by
  refine List.map_congr_left fun i hi => ?_
  have hlt : i < n := List.mem_range.1 hi
  simp [BitVec.getMsbD, BitVec.getLsbD, hlt]

theorem bitsOf_cons (b : Bool) (v : BitVec n) : bitsOf (BitVec.cons b v) = b :: bitsOf v := by
  rw [bitsOf, List.range_succ_eq_map, List.map_cons, List.map_map]
  refine congrArg₂ _ ?_ (List.map_congr_left fun i hi => ?_)
  · simp only [BitVec.getMsbD_eq_getLsbD, BitVec.getLsbD_cons, Nat.add_sub_cancel, Nat.sub_zero, if_true, Nat.succ_pos, decide_true,
      Bool.true_and]
  · have hlt : i < n := List.mem_range.1 hi
    have hne : n - 1 - i ≠ n := by omega
    have hsub : n - (i + 1) = n - 1 - i := by omega
    simp only [Function.comp, BitVec.getMsbD_eq_getLsbD, BitVec.getLsbD_cons, Nat.add_sub_cancel, hsub, if_neg hne,
      decide_eq_true hlt, decide_eq_true (Nat.succ_lt_succ hlt)]

/-- Every field of more than no bits is its first bit and the field of the others. -/
theorem exists_eq_cons (v : BitVec (n + 1)) : ∃ b, ∃ w : BitVec n, v = BitVec.cons b w :=
  ⟨v.msb, v.setWidth n, (BitVec.cons_msb_setWidth v).symm⟩

/-- Of two fields of a width, the lower number has the lower bits: the first bit in which they differ decides. -/
theorem lowestOf_bitsOf : ∀ {n : Nat} {v w : BitVec n}, v.toNat ≤ w.toNat → lowestOf (bitsOf v) (bitsOf w)
  | 0, _, _, _ => trivial
  | n + 1, v, w, h => by
    obtain ⟨a, v, rfl⟩ := exists_eq_cons v
    obtain ⟨b, w, rfl⟩ := exists_eq_cons w
    have hv := v.isLt
    have hw := w.isLt
    rw [bitsOf_cons, bitsOf_cons, lowestOf]
    rw [BitVec.toNat_cons', BitVec.toNat_cons'] at h
    cases a <;> cases b <;> simp [Nat.shiftLeft_eq] at h ⊢
    case false.false => exact lowestOf_bitsOf h
    case true.true => exact lowestOf_bitsOf h
    case true.false => omega

/-- What is laid out in parts of one length. -/
theorem length_flatMap_of_length {α β : Type} {f : α → List β} {width : Nat} (h : ∀ x, (f x).length = width) (l : List α) :
    (l.flatMap f).length = width * l.length := by
  simp [List.length_flatMap, h, Nat.mul_comm]

theorem length_flatMap_bitsOf (payload : List Byte) : (payload.flatMap bitsOf).length = 8 * payload.length :=
  length_flatMap_of_length length_bitsOf payload

end

/-! ### The check register (R189) -/

section
variable {reg other : BitVec 16} {bit : Bool}

theorem checkStep_eq (reg : BitVec 16) (bit : Bool) :
    checkStep reg bit = reg <<< 1 ^^^ if bit = reg.msb then 0#16 else 0x1021#16 := by
  rw [checkStep]
  by_cases h : bit = reg.msb <;> simp [h]

theorem checkStep_toNat (reg : BitVec 16) (bit : Bool) : (checkStep reg bit).toNat
    = Nat.xor (2 * reg.toNat % 65536) (if bit = decide (32768 ≤ reg.toNat) then 0 else 0x1021) := by
  have hmsb : reg.msb = decide (32768 ≤ reg.toNat) := BitVec.msb_eq_decide reg
  have hshift : (reg <<< 1).toNat = 2 * reg.toNat % 65536 := by
    rw [BitVec.toNat_shiftLeft, Nat.shiftLeft_eq, Nat.mul_comm]
  rw [checkStep_eq, BitVec.toNat_xor, hshift, hmsb, apply_ite BitVec.toNat]
  rfl

/-- The lowest bit of the register tells whether the bit that entered differed from the most significant one. -/
theorem checkStep_lowest (reg : BitVec 16) (bit : Bool) : (checkStep reg bit)[0] = (bit != reg.msb) := by
  by_cases h : bit = reg.msb <;> simp [checkStep_eq, h]

/-- A bit enters two registers alike only if they are the same. -/
theorem checkStep_injective (bit : Bool) : Function.Injective fun reg => checkStep reg bit := by
  intro reg other h
  have h : checkStep reg bit = checkStep other bit := h
  have hmsb : reg.msb = other.msb := by
    have hlow := congrArg (fun r : BitVec 16 => r[0]) h
    simpa [checkStep_lowest] using hlow
  have hshift : reg <<< 1 = other <<< 1 := by
    simpa [checkStep_eq, hmsb] using h
  have hlower := congrArg BitVec.toNat hshift
  have hfirst : (32768 ≤ reg.toNat) = (32768 ≤ other.toNat) := by
    simpa [BitVec.msb_eq_decide] using hmsb
  have := reg.isLt
  have := other.isLt
  simp only [BitVec.toNat_shiftLeft, Nat.shiftLeft_eq] at hlower
  exact BitVec.eq_of_toNat_eq (by by_cases hr : 32768 ≤ reg.toNat <;> have := hfirst ▸ hr <;> omega)

theorem foldl_checkStep_injective (bits : List Bool) : Function.Injective fun reg => bits.foldl checkStep reg := by
  induction bits with
  | nil => exact Function.injective_id
  | cons bit bits ih => exact ih.comp (checkStep_injective bit)

/-- The two values of a bit leave different registers. -/
theorem checkStep_ne_of_not (reg : BitVec 16) (bit : Bool) : checkStep reg bit ≠ checkStep reg (!bit) := by
  intro h
  have hlow : (checkStep reg bit)[0] = (checkStep reg (!bit))[0] := by rw [← h]
  rw [checkStep_lowest, checkStep_lowest] at hlow
  cases bit <;> cases hm : reg.msb <;> simp [hm] at hlow

end

/-! ### The bits of a telegram (R155, R159) -/

/-- The bits before the target are the start bit, the class and the sender; the bits that follow the checked ones are the check sequence. -/
theorem Frame.bits_eq (f : Frame) : f.bits =
    (false :: (bitsOf f.header.cls ++ bitsOf f.header.sender)) ++ checkedBits f.header f.payload ++ bitsOf f.check := by
  simp [Frame.bits, checkedBits]

theorem length_checkedBits (h : Header) (payload : List Byte) : (checkedBits h payload).length = 17 + 8 * payload.length := by
  simp only [checkedBits, List.length_append, length_bitsOf, length_flatMap_bitsOf]

/-- Settles O45: after the wrong bit the registers differ, and no bit that follows brings them together again. -/
theorem singleBitErrorFailsCheck : Obligations.SingleBitErrorFailsCheck := by
  refine ⟨fun before after bit start => ?_, checkStep_toNat, fun f => ?_⟩
  · rw [List.foldl_append, List.foldl_append]
    exact (foldl_checkStep_injective after).ne (checkStep_ne_of_not _ bit)
  · intro field h
    refine ⟨?_, ?_, ?_⟩
    · have hfield {n : Nat} (v : BitVec n) : bitsOf v = field n v.toNat := bitsOf_eq_testBit v
      have hpayload : f.payload.flatMap bitsOf = f.payload.flatMap fun b => field 8 b.toNat :=
        congrArg f.payload.flatMap (funext hfield)
      simp only [Frame.bits, hpayload, hfield, List.append_assoc, List.cons_append, List.nil_append, h]
    · rw [f.bits_eq]
      simp [length_checkedBits]; omega
    · have hbefore : (false :: (bitsOf h.cls ++ bitsOf h.sender)).length = 8 := by simp
      rw [f.bits_eq, List.append_assoc, List.drop_left' hbefore, List.take_left' (length_checkedBits h f.payload)]
      rfl

/-! ### What the line carries of a telegram (R154, R162) -/

/-- A station sends its telegram bit by bit, the value of each in its second half. -/
theorem drives_transmission {l : Line} {x : Transmission} (htx : l.tx = some x) (hb : l.breakSend = false) :
    l.drives = x.frame.bits.map codeBit := by
  simp [Line.drives, htx, hb]

theorem second_codeBit (b : Bool) : (codeBit b).second = if b then .recessive else .dominant := by cases b <;> rfl

theorem first_ne_second_codeBit (b : Bool) : (codeBit b).first ≠ (codeBit b).second := by cases b <;> decide

/-- Of several contention fields behind their start bits, the line carries the lowest. -/
theorem contend_fields {fields : List (BitVec 7)} {v : BitVec 7} (hv : v ∈ fields) (hlow : ∀ w ∈ fields, v.toNat ≤ w.toNat) :
    contend 8 (fields.map fun w => false :: bitsOf w) = false :: bitsOf v := by
  refine contend_lowest 8 _ _ (List.mem_map_of_mem hv) (by simp) fun d hd => ?_
  obtain ⟨w, hw, rfl⟩ := List.mem_map.1 hd
  exact ⟨by simp, .inr ⟨rfl, lowestOf_bitsOf (hlow w hw)⟩⟩

/-! ### The offer (R156, R161) -/

section
variable {s : State} {before after : List TxGroup} {g : TxGroup} {t : Telegram} {rest : List Telegram}

/-- The head of the highest non-empty group begins transmission. -/
theorem offer_highest (htx : s.line.tx = none) (hb : s.line.breakSend = false) (horder : s.ctrl.setup.groupOrder = before ++ g :: after)
    (hbefore : ∀ h ∈ before, s.line.group h = []) (hg : s.line.group g = t :: rest) :
    offer s = s.onLine fun l => { l with tx := some ⟨g, frameOf s.ctrl.ownNumber t, false⟩ } := by
  have hfind : (s.ctrl.setup.groupOrder.find? fun h => !(s.line.group h).isEmpty) = some g := by
    rw [horder, List.find?_append, List.find?_eq_none.2 fun h hh => by simp [hbefore h hh]]
    simp [hg]
  simp [offer, htx, hb, hfind, hg]

/-- With every group empty nothing is offered. -/
theorem offer_empty (h : ∀ g, s.line.group g = []) : offer s = s := by
  have hfind : (s.ctrl.setup.groupOrder.find? fun h => !(s.line.group h).isEmpty) = none :=
    List.find?_eq_none.2 fun g _ => by simp [h g]
  simp [offer, hfind]

theorem lineIdles_waiting (hrx : s.line.rx = .idleWait) (hb : s.line.breakSend = false) :
    lineIdles s = offer (s.onLine fun l => { l with rx := .idle, judging := false }) := if_pos ⟨hrx, hb⟩

/-- What enters a group that holds a telegram, or while the line is not to be offered to, waits there. -/
theorem enqueue_unoffered (h : s.line.group g ≠ [] ∨ s.line.rx ≠ .idle ∨ s.line.tx ≠ none ∨ s.line.breakSend = true) :
    enqueue g t s = s.onLine fun l => l.setGroup g (l.group g ++ [t]) := by
  obtain hg | hrx | htx | hb := h
  · have hne : (s.line.group g).isEmpty = false := List.isEmpty_eq_false_iff.2 hg
    simp [enqueue, hne]
  · exact enqueue_busy s g t hrx
  · have hoffer : offer (s.onLine fun l => l.setGroup g (l.group g ++ [t])) = s.onLine fun l => l.setGroup g (l.group g ++ [t]) :=
      if_pos (by simp [Option.isSome_iff_ne_none.2 htx])
    simp [enqueue, hoffer]
  · exact enqueue_waits (.inr hb) g t

theorem enqueue_offered (hg : s.line.group g = []) (hrx : s.line.rx = .idle) :
    enqueue g t s = offer (s.onLine fun l => l.setGroup g (l.group g ++ [t])) := by
  simp [enqueue, hg, hrx]

end

/-- The order of a code that is none of 1 to 5 is that of code 0 (R161, R172). -/
theorem groupOrder_other {u : Setup} {l : LineItem} (hu : u.line = some l) (h : l.orderCode = 0 ∨ 6 ≤ l.orderCode) :
    u.groupOrder = [.a, .b, .c] := by
  simp only [Setup.groupOrder, hu]
  obtain hcode | hcode := h
  · rw [hcode]
    rfl
  · obtain ⟨k, hk⟩ := Nat.exists_eq_add_of_le' hcode
    rw [hk]
    rfl

/-- Settles O42: an offer is the head of the first non-empty group of the order, at LINE_IDLE as at entry; bits are coded one by one, and the
lowest of several fields is never read back wrong. -/
theorem lineIdleOffers : Obligations.LineIdleOffers := by
  refine ⟨fun s hl hrx hb htx => ?_, fun g t s => ?_, fun u hu => ?_, fun u l hu => ?_, fun l x htx hb => ?_,
    fun fields v hv hlow => contend_fields hv hlow⟩
  · have hidle : exec .lineIdle s = .next (offer (s.onLine fun l => { l with rx := .idle, judging := false })) :=
      (live_eq s _ hl).trans (congrArg _ (lineIdles_waiting hrx hb))
    refine ⟨fun ha hb' hc => ?_, fun before after g t rest horder hbefore hg => ?_⟩
    · rw [hidle, offer_empty fun g => by cases g <;> assumption]
      rfl
    · rw [hidle, offer_highest (s := s.onLine fun l => { l with rx := .idle, judging := false }) htx hb horder hbefore hg]
      rfl
  · intro l
    have henter : (s.onLine fun l => l.setGroup g (l.group g ++ [t])) = { s with line := l } := by cases g <;> rfl
    refine ⟨fun h => (enqueue_unoffered h).trans henter, fun hg hrx htx hb before after h x rest horder hbefore hh => ?_⟩
    rw [enqueue_offered hg hrx, henter]
    exact offer_highest (s := { s with line := l }) (by cases g <;> exact htx) (by cases g <;> exact hb) horder hbefore hh
  · simp only [Setup.groupOrder, hu]
  · refine ⟨groupOrder_other hu, ?_, ?_, ?_, ?_, ?_⟩ <;> intro hcode <;> simp only [Setup.groupOrder, hu, hcode]
  · rw [drives_transmission htx hb]
    refine ⟨by simp [second_codeBit], fun h hh => ?_⟩
    obtain ⟨b, -, rfl⟩ := List.mem_map.1 hh
    exact first_ne_second_codeBit b

end Sys2Proof.Machine

/-! Layouts: what a field of a payload reads as after it has been put there, and with it every telegram the station sends, field by
field. -/

namespace Sys2Proof.Machine

/-! ### Fields put one after another (R190) -/

@[simp] theorem length_put8 (v : Nat) : (put8 v).length = 1 := by simp [put8]
@[simp] theorem length_put16 (v : Nat) : (put16 v).length = 2 := by simp [put16]
@[simp] theorem length_put24 (v : Nat) : (put24 v).length = 3 := by simp [put24]
@[simp] theorem length_putInt16 (v : Int) : (putInt16 v).length = 2 := by simp [putInt16]

@[simp] theorem numberAt_put8 (v : Nat) : numberAt (put8 v) 0 1 = v % 256 := by
  simp [numberAt, put8]

@[simp] theorem numberAt_put16 (v : Nat) : numberAt (put16 v) 0 2 = v % 65536 := by
  simp [numberAt, put16]; omega

@[simp] theorem numberAt_put24 (v : Nat) : numberAt (put24 v) 0 3 = v % 16777216 := by
  simp [numberAt, put24]; omega

@[simp] theorem numberAt_putInt16 (v : Int) : numberAt (putInt16 v) 0 2 = (v % 65536).toNat := by
  rw [putInt16, numberAt_put16]; omega

section
variable {p q : List Byte} {off width : Nat}

theorem numberAt_append_left (h : off + width ≤ p.length) : numberAt (p ++ q) off width = numberAt p off width := by
  rw [numberAt, List.drop_append_of_le_length (by omega), List.take_append_of_le_length (by rw [List.length_drop]; omega)]
  rfl

theorem numberAt_append_right (h : p.length ≤ off) : numberAt (p ++ q) off width = numberAt q (off - p.length) width := by
  rw [numberAt, List.drop_append, List.drop_eq_nil_of_le h]
  rfl

theorem numberAt_four (h : off + 3 < p.length) : numberAt p off 4 = 65536 * numberAt p off 2 + numberAt p (off + 2) 2 := by
  have hlast : off + 2 + 1 = off + 3 := rfl
  rw [numberAt_succ h, numberAt_succ (by omega), numberAt_two (off := off + 2) (by omega), word16At, hlast]
  omega

/-- A number in two's complement reads as it was put (R190). -/
theorem signedAt_of_numberAt {v : Int} (h : numberAt p off 2 = (v % 65536).toNat) (hlo : -32768 ≤ v) (hhi : v ≤ 32767) :
    signedAt p off 2 = v := by
  rw [signedAt, h]
  norm_num
  split <;> omega

theorem signedAt_two_eq : signedAt p off 2
    = if numberAt p off 2 < 32768 then (numberAt p off 2 : Int) else (numberAt p off 2 : Int) - 65536 := by
  rw [signedAt]
  refine if_congr ?_ rfl rfl
  norm_num; omega

/-- A field of the entry at a place of a list of entries of one width. -/
theorem numberAt_flatMap {α : Type} {f : α → List Byte} {n j : Nat} (hf : ∀ x, (f x).length = n) (hj : j + width ≤ n) {x : α} :
    ∀ {l : List α} {i : Nat}, l[i]? = some x → numberAt (l.flatMap f) (n * i + j) width = numberAt (f x) j width
  | [], _, h => by simp at h
  | y :: l, 0, h => by
    obtain rfl : y = x := by simpa using h
    rw [List.flatMap_cons, Nat.mul_zero, Nat.zero_add, numberAt_append_left (by rw [hf]; exact hj)]
  | y :: l, i + 1, h => by
    have hoff : n * (i + 1) + j - n = n * i + j := by rw [Nat.mul_succ]; omega
    rw [List.flatMap_cons, numberAt_append_right (by rw [hf, Nat.mul_succ]; omega), hf, hoff]
    exact numberAt_flatMap hf hj (by simpa using h)

/-- The same where other fields stand before the entries. -/
theorem numberAt_entry {α : Type} {f : α → List Byte} {n i j base : Nat} {l : List α} {x : α} (hp : p.length = base)
    (hf : ∀ x, (f x).length = n) (hj : j + width ≤ n) (hx : l[i]? = some x) (hoff : off = base + n * i + j) :
    numberAt (p ++ l.flatMap f) off width = numberAt (f x) j width := by
  have hsub : off - p.length = n * i + j := by omega
  rw [numberAt_append_right (by omega), hsub, numberAt_flatMap hf hj hx]

end

theorem bitValue_le (n : Nat) (b : Bool) : bitValue n b ≤ 2 ^ n := by cases b <;> simp [bitValue]

/-! ### DRAINED and ALERT (R144, R191) -/

theorem drained_laid {n : Option Nat} (h : ∀ v ∈ n, v ≤ 16777215) : (layDrained n).length = 4
    ∧ numberAt (layDrained n) 0 1 = bitValue 0 n.isSome ∧ numberAt (layDrained n) 1 3 = n.getD 0 := by
  have hn : n.getD 0 ≤ 16777215 := by cases n <;> simp_all
  have hflag := bitValue_le 0 n.isSome
  simp [layDrained, putSection, numberAt_append_left, numberAt_append_right]
  omega

/-- Every number of an ALERT is in the range of its field. -/
structure Alert.Fits (a : Alert) : Prop where
  id : a.id ≤ 255
  spanFirst : a.spanFirst ≤ 65535
  spanLast : a.spanLast ≤ 65535
  firstSection : a.firstSection ≤ 16777215
  currentSection : a.currentSection ≤ 16777215
  lastSection : a.lastSection ≤ 16777215
  low : -32768 ≤ a.minClearance
  high : a.minClearance ≤ 32767

section
variable {a : Alert}

@[simp] theorem length_layAlert (a : Alert) : (layAlert a).length = 17 := by simp [layAlert]

theorem alert_laid (h : a.Fits) : numberAt (layAlert a) 0 1 = bitValue 0 a.isEnd + bitValue 1 a.corroborated
    ∧ numberAt (layAlert a) 1 1 = a.id ∧ numberAt (layAlert a) 2 2 = a.spanFirst ∧ numberAt (layAlert a) 4 2 = a.spanLast
    ∧ numberAt (layAlert a) 6 3 = a.firstSection ∧ numberAt (layAlert a) 9 3 = a.currentSection
    ∧ signedAt (layAlert a) 12 2 = a.minClearance ∧ numberAt (layAlert a) 14 3 = a.lastSection := by
  obtain ⟨hid, hfirst, hlast, hsection, hcurrent, hend, hlo, hhi⟩ := h
  have hisEnd := bitValue_le 0 a.isEnd
  have hcorroborated := bitValue_le 1 a.corroborated
  have hclearance : numberAt (layAlert a) 12 2 = (a.minClearance % 65536).toNat := by
    simp [layAlert, numberAt_append_left, numberAt_append_right]
  refine ⟨?_, ?_, ?_, ?_, ?_, ?_, signedAt_of_numberAt hclearance hlo hhi, ?_⟩ <;>
    simp [layAlert, numberAt_append_left, numberAt_append_right] <;> omega

/-- An ALERT as it is read, by the numbers in its payload. -/
theorem readAlert_eq {p : List Byte} (h : p.length = 17) : readAlert p =
    { isEnd := (numberAt p 0 1).testBit 0
      corroborated := (numberAt p 0 1).testBit 1
      id := numberAt p 1 1
      spanFirst := numberAt p 2 2
      spanLast := numberAt p 4 2
      firstSection := numberAt p 6 3
      currentSection := numberAt p 9 3
      minClearance := signedAt p 12 2
      lastSection := numberAt p 14 3 } := by
  simp (disch := omega) only [numberAt_one, numberAt_two, numberAt_three, signedAt_two]
  rfl

theorem testBit_flags (x y : Bool) : (bitValue 0 x + bitValue 1 y).testBit 0 = x ∧ (bitValue 0 x + bitValue 1 y).testBit 1 = y := by
  cases x <;> cases y <;> decide

theorem readAlert_layAlert (h : a.Fits) : readAlert (layAlert a) = a := by
  obtain ⟨hflags, hid, hfirst, hlast, hsection, hcurrent, hclearance, hend⟩ := alert_laid h
  obtain ⟨hisEnd, hcorroborated⟩ := testBit_flags a.isEnd a.corroborated
  rw [readAlert_eq (length_layAlert a), hflags, hid, hfirst, hlast, hsection, hcurrent, hclearance, hend, hisEnd, hcorroborated]

theorem lengthAdmitted_layAlert (a : Alert) : lengthAdmitted .alert (layAlert a) = true := decide_eq_true (length_layAlert a)

end

/-! ### EDGE (R114, R115, R191) -/

/-- Every number of an EDGE is in the range of its field. -/
structure EdgeBody.Fits (e : EdgeBody) : Prop where
  number : e.number ≤ 16777215
  count : e.entries.length ≤ 32
  entries : ∀ x ∈ e.entries, x.bin ≤ 65535 ∧ x.qBest ≤ 255 ∧ x.nLast ≤ 255

section
variable {e : EdgeBody} {i : Nat} {x : EdgeEntry}

theorem length_layEdgeEntry (x : EdgeEntry) : (layEdgeEntry x).length = 4 := by simp [layEdgeEntry]

theorem length_layEdge (e : EdgeBody) : (layEdge e).length = 5 + 4 * e.entries.length := by
  simp [layEdge, length_flatMap_of_length length_layEdgeEntry]
  omega

theorem edge_laid (h : e.Fits) : numberAt (layEdge e) 0 3 = e.number ∧ numberAt (layEdge e) 3 1 = e.side.code + bitValue 7 e.gap
    ∧ numberAt (layEdge e) 4 1 = e.entries.length := by
  have hnumber := h.number
  have hcount := h.count
  have hgap := bitValue_le 7 e.gap
  have hside : e.side.code ≤ 2 := by cases e.side <;> decide
  refine ⟨?_, ?_, ?_⟩ <;> simp [layEdge, numberAt_append_left, numberAt_append_right] <;> omega

theorem edgeEntry_laid (h : e.Fits) (hx : e.entries[i]? = some x) : numberAt (layEdge e) (5 + 4 * i) 2 = x.bin
    ∧ numberAt (layEdge e) (7 + 4 * i) 1 = x.qBest ∧ numberAt (layEdge e) (8 + 4 * i) 1 = x.nLast := by
  obtain ⟨hbin, hq, hn⟩ := h.entries x (List.mem_of_getElem? hx)
  have hentry {j width off : Nat} (hj : j + width ≤ 4) (hoff : off = 5 + 4 * i + j) :
      numberAt (layEdge e) off width = numberAt (layEdgeEntry x) j width :=
    numberAt_entry (by simp) length_layEdgeEntry hj hx hoff
  rw [hentry (j := 0) (by omega) (by omega), hentry (j := 2) (by omega) (by omega), hentry (j := 3) (by omega) (by omega)]
  refine ⟨?_, ?_, ?_⟩ <;> simp [layEdgeEntry, numberAt_append_left, numberAt_append_right] <;> omega

theorem edgeEntryAt_layEdge (h : e.Fits) (hx : e.entries[i]? = some x) : edgeEntryAt (layEdge e) i = x := by
  have hi : i < e.entries.length := (List.getElem?_eq_some_iff.1 hx).1
  have hlen := length_layEdge e
  obtain ⟨hbin, hq, hn⟩ := edgeEntry_laid h hx
  rw [numberAt_two (by omega)] at hbin
  rw [numberAt_one (by omega)] at hq hn
  rw [edgeEntryAt, hbin, hq, hn]

theorem edge_read (h : e.Fits) : word24At (layEdge e) 0 = e.number ∧ edgeSideAt (layEdge e) = some e.side
    ∧ readPeerEdge (layEdge e) = ⟨e.gap, e.entries⟩ ∧ byteAt (layEdge e) 4 = e.entries.length := by
  have hlen := length_layEdge e
  obtain ⟨hnumber, hside, hcount⟩ := edge_laid h
  rw [numberAt_three (by omega)] at hnumber
  rw [numberAt_one (by omega)] at hside hcount
  have hentries : (List.range e.entries.length).map (edgeEntryAt (layEdge e)) = e.entries :=
    List.ext_getElem (by simp) fun i hi hi' => by simp [edgeEntryAt_layEdge h (List.getElem?_eq_getElem hi')]
  refine ⟨hnumber, ?_, ?_, hcount⟩
  · rw [edgeSideAt, hside]
    cases e.side <;> cases e.gap <;> rfl
  · have hgap : flagAt (layEdge e) 3 7 = e.gap := by
      rw [flagAt, hside]
      cases e.side <;> cases e.gap <;> decide
    rw [readPeerEdge, hgap, hcount, hentries]

theorem lengthAdmitted_layEdge (h : e.Fits) : lengthAdmitted .edge (layEdge e) = true := by
  obtain ⟨-, -, -, hcount⟩ := edge_read h
  have hlen := length_layEdge e
  simp [lengthAdmitted, hcount, hlen]

end

/-! ### REPORT (R102, R103, R191) -/

/-- Every number of a report part is in the range of its field, and part 0 alone has the summary. -/
structure ReportPart.Fits (r : ReportPart) : Prop where
  number : r.number ≤ 16777215
  index : r.index ≤ 15
  count : r.count ≤ 15
  length : r.entries.length ≤ 26
  summary : r.summary.isSome = decide (r.index = 0)
  entries : ∀ x ∈ r.entries, x.bin ≤ 1023 ∧ x.nLast ≤ 255 ∧ x.qBest ≤ 255 ∧ (∀ m ∈ x.meanRadius, m < 16777215)
    ∧ ∀ c ∈ x.cMin, -32768 < c ∧ c ≤ 32767

/-- Where the entries of a report part begin: behind the summary in part 0. -/
def ReportPart.base (r : ReportPart) : Nat := if r.index = 0 then 20 else 5

/-- What stands before the entries of a report part. -/
def ReportPart.head (r : ReportPart) : List Byte :=
  put24 r.number ++ put8 (r.index * 16 + r.count) ++ put8 r.entries.length
    ++ (match r.summary with
        | some m => laySummary m
        | none => [])

section
variable {r : ReportPart} {m : Summary} {w : SweepSummary} {i : Nat} {x : ReportEntry}

theorem layReport_eq (r : ReportPart) : layReport r = r.head ++ r.entries.flatMap layReportEntry := rfl

@[simp] theorem length_laySummary (m : Summary) : (laySummary m).length = 15 := by simp [laySummary]

theorem length_head (h : r.Fits) : r.head.length = r.base := by
  have hsummary := h.summary
  cases hs : r.summary with
  | none =>
    have hindex : r.index ≠ 0 := by simpa [hs] using hsummary
    simp [ReportPart.head, ReportPart.base, hs, hindex]
  | some m =>
    have hindex : r.index = 0 := by simpa [hs] using hsummary
    simp [ReportPart.head, ReportPart.base, hs, hindex]

theorem length_layReportEntry (x : ReportEntry) : (layReportEntry x).length = 9 := by simp [layReportEntry, putClearance]

theorem length_layReport (h : r.Fits) : (layReport r).length = r.base + 9 * r.entries.length := by
  rw [layReport_eq, List.length_append, length_head h, length_flatMap_of_length length_layReportEntry]

theorem report_laid (h : r.Fits) : numberAt (layReport r) 0 3 = r.number ∧ numberAt (layReport r) 3 1 = 16 * r.index + r.count
    ∧ numberAt (layReport r) 4 1 = r.entries.length := by
  obtain ⟨hnumber, hindex, hcount, hlength, -, -⟩ := h
  refine ⟨?_, ?_, ?_⟩ <;> simp [layReport, numberAt_append_left, numberAt_append_right] <;> omega

/-- The fields of the summary stand behind the five bytes that every part begins with. -/
theorem numberAt_layReport_summary (hs : r.summary = some m) {off width : Nat} (h : off + width ≤ 15) :
    numberAt (layReport r) (5 + off) width = numberAt (laySummary m) off width := by
  have hfive : (put24 r.number ++ put8 (r.index * 16 + r.count) ++ put8 r.entries.length).length = 5 := by simp
  rw [layReport, hs, List.append_assoc, numberAt_append_right (by omega), hfive, Nat.add_sub_cancel_left,
    numberAt_append_left (by rw [length_laySummary]; exact h)]

/-- Every number of a summary, with its sweep fields, is in the range of its field. -/
structure Summary.Fits (m : Summary) (w : SweepSummary) : Prop where
  sweep : m.sweep = some w
  low : -32768 ≤ w.cant
  high : w.cant ≤ 32767
  fired : w.fired ≤ 255
  excluded : w.excluded ≤ 255
  valid : m.valid ≤ 255
  near : m.near ≤ 255
  far : m.far ≤ 255
  foreign : m.foreign ≤ 65535
  suspectDropped : m.suspectDropped ≤ 255
  cededCount : m.cededCount ≤ 255
  gapBefore : m.gapBefore ≤ 16777215

/-- The flags of a summary in one byte. -/
def Summary.flags (m : Summary) (w : SweepSummary) : Nat :=
  bitValue 0 w.reduced + bitValue 1 m.drainMark + bitValue 4 m.gapReasons.halt + bitValue 5 m.gapReasons.hot
    + bitValue 6 m.gapReasons.busy + bitValue 7 m.gapReasons.storeFull

theorem flags_le (m : Summary) (w : SweepSummary) : m.flags w ≤ 255 := by
  have h0 := bitValue_le 0 w.reduced
  have h1 := bitValue_le 1 m.drainMark
  have h4 := bitValue_le 4 m.gapReasons.halt
  have h5 := bitValue_le 5 m.gapReasons.hot
  have h6 := bitValue_le 6 m.gapReasons.busy
  have h7 := bitValue_le 7 m.gapReasons.storeFull
  unfold Summary.flags
  omega

theorem laySummary_eq (hw : m.sweep = some w) : laySummary m =
    putInt16 w.cant ++ put8 (m.flags w) ++ put8 w.fired ++ put8 w.excluded ++ put8 m.valid ++ put8 m.near ++ put8 m.far
      ++ put16 m.foreign ++ put8 m.suspectDropped ++ put8 m.cededCount ++ put24 m.gapBefore := by
  rw [laySummary, hw]
  rfl

theorem summary_laid (h : m.Fits w) : signedAt (laySummary m) 0 2 = w.cant ∧ numberAt (laySummary m) 2 1 = m.flags w
    ∧ numberAt (laySummary m) 3 1 = w.fired ∧ numberAt (laySummary m) 4 1 = w.excluded ∧ numberAt (laySummary m) 5 1 = m.valid
    ∧ numberAt (laySummary m) 6 1 = m.near ∧ numberAt (laySummary m) 7 1 = m.far ∧ numberAt (laySummary m) 8 2 = m.foreign
    ∧ numberAt (laySummary m) 10 1 = m.suspectDropped ∧ numberAt (laySummary m) 11 1 = m.cededCount
    ∧ numberAt (laySummary m) 12 3 = m.gapBefore := by
  obtain ⟨hsweep, hlo, hhi, hfired, hexcluded, hvalid, hnear, hfar, hforeign, hdropped, hceded, hgap⟩ := h
  have hflags := flags_le m w
  rw [laySummary_eq hsweep]
  refine ⟨signedAt_of_numberAt ?_ hlo hhi, ?_, ?_, ?_, ?_, ?_, ?_, ?_, ?_, ?_, ?_⟩ <;>
    simp [numberAt_append_left, numberAt_append_right] <;> omega

/-- The summary of part 0, where it stands in the part. -/
theorem reportSummary_laid (hs : r.summary = some m) (h : m.Fits w) : signedAt (layReport r) 5 2 = w.cant
    ∧ numberAt (layReport r) 7 1 = m.flags w ∧ numberAt (layReport r) 8 1 = w.fired ∧ numberAt (layReport r) 9 1 = w.excluded
    ∧ numberAt (layReport r) 10 1 = m.valid ∧ numberAt (layReport r) 11 1 = m.near ∧ numberAt (layReport r) 12 1 = m.far
    ∧ numberAt (layReport r) 13 2 = m.foreign ∧ numberAt (layReport r) 15 1 = m.suspectDropped
    ∧ numberAt (layReport r) 16 1 = m.cededCount ∧ numberAt (layReport r) 17 3 = m.gapBefore := by
  have hfield {off width : Nat} (hoff : 5 ≤ off) (hend : off + width ≤ 20) :
      numberAt (layReport r) off width = numberAt (laySummary m) (off - 5) width := by
    rw [← numberAt_layReport_summary hs (by omega), Nat.add_sub_cancel' hoff]
  have hcant : signedAt (layReport r) 5 2 = signedAt (laySummary m) 0 2 := by
    rw [signedAt, hfield (by omega) (by omega)]
    rfl
  rw [hcant]
  simp (disch := omega) only [hfield]
  exact summary_laid h

/-- The bin of a report entry with its flags in one number. -/
def ReportEntry.binAndFlags (x : ReportEntry) : Nat :=
  64 * x.bin + bitValue 5 x.suspect + bitValue 4 x.warn + bitValue 3 x.intrusion + bitValue 2 x.unpaired + bitValue 1 x.contested

theorem binAndFlags_le (h : x.bin ≤ 1023) : x.binAndFlags ≤ 65535 := by
  have h5 := bitValue_le 5 x.suspect
  have h4 := bitValue_le 4 x.warn
  have h3 := bitValue_le 3 x.intrusion
  have h2 := bitValue_le 2 x.unpaired
  have h1 := bitValue_le 1 x.contested
  unfold ReportEntry.binAndFlags
  omega

theorem layReportEntry_eq (x : ReportEntry) : layReportEntry x = put16 x.binAndFlags ++ put8 x.nLast ++ put8 x.qBest
    ++ put24 (x.meanRadius.getD 16777215) ++ putInt16 (x.cMin.getD (-32768)) := by
  rw [layReportEntry, ReportEntry.binAndFlags, Nat.mul_comm]
  rfl

theorem reportEntry_laid (h : r.Fits) (hx : r.entries[i]? = some x) : numberAt (layReport r) (r.base + 9 * i) 2 = x.binAndFlags
    ∧ numberAt (layReport r) (r.base + 9 * i + 2) 1 = x.nLast ∧ numberAt (layReport r) (r.base + 9 * i + 3) 1 = x.qBest
    ∧ numberAt (layReport r) (r.base + 9 * i + 4) 3 = x.meanRadius.getD 16777215
    ∧ signedAt (layReport r) (r.base + 9 * i + 7) 2 = x.cMin.getD (-32768) := by
  obtain ⟨hbin, hn, hq, hradius, hclearance⟩ := h.entries x (List.mem_of_getElem? hx)
  have hbin := binAndFlags_le hbin
  have hradius : x.meanRadius.getD 16777215 ≤ 16777215 := by
    cases hm : x.meanRadius with
    | none => simp
    | some v => exact le_of_lt (hradius v hm)
  have hclearance : -32768 ≤ x.cMin.getD (-32768) ∧ x.cMin.getD (-32768) ≤ 32767 := by
    cases hc : x.cMin with
    | none => simp
    | some c => exact ⟨le_of_lt (hclearance c hc).1, (hclearance c hc).2⟩
  have hentry {j width : Nat} (hj : j + width ≤ 9) :
      numberAt (layReport r) (r.base + 9 * i + j) width = numberAt (layReportEntry x) j width :=
    numberAt_entry (length_head h) length_layReportEntry hj hx rfl
  have hlaid := layReportEntry_eq x
  refine ⟨(hentry (j := 0) (by omega)).trans ?_, (hentry (by omega)).trans ?_, (hentry (by omega)).trans ?_,
    (hentry (by omega)).trans ?_, signedAt_of_numberAt ((hentry (by omega)).trans ?_) hclearance.1 hclearance.2⟩ <;>
    simp [hlaid, numberAt_append_left, numberAt_append_right] <;> omega

end

/-! ### STATUS (R187, R191) -/

/-- The value of a bit above a number sets that bit and none below it. -/
theorem testBit_bitValue_add {n m : Nat} (b : Bool) (hm : m < 2 ^ n) :
    (bitValue n b + m).testBit n = b ∧ ∀ k < n, (bitValue n b + m).testBit k = m.testBit k := by
  cases b with
  | false => simp [bitValue, Nat.testBit_lt_two_pow hm]
  | true =>
    refine ⟨?_, fun k hk => Nat.testBit_two_pow_add_gt hk m⟩
    simp [bitValue, Nat.testBit_two_pow_add_eq, Nat.testBit_lt_two_pow hm]

/-- A set as the sum of the values of its bits: each bit is its member's, and nothing stands above them. -/
theorem sum_bitValue_testBit : ∀ {n : Nat} (g : Fin n → Bool),
    ((List.finRange n).map fun k => bitValue k.val (g k)).sum < 2 ^ n
      ∧ ∀ k : Fin n, ((List.finRange n).map fun k => bitValue k.val (g k)).sum.testBit k.val = g k
  | 0, _ => ⟨by simp, fun k => k.elim0⟩
  | n + 1, g => by
    obtain ⟨hlt, hbit⟩ := sum_bitValue_testBit fun k : Fin n => g k.castSucc
    have hsum : ((List.finRange (n + 1)).map fun k => bitValue k.val (g k)).sum
        = bitValue n (g (Fin.last n)) + ((List.finRange n).map fun k : Fin n => bitValue k.val (g k.castSucc)).sum := by
      rw [List.finRange_succ_last, List.map_append, List.sum_append, List.map_map, Nat.add_comm]
      rfl
    obtain ⟨hlast, hbelow⟩ := testBit_bitValue_add (g (Fin.last n)) hlt
    rw [hsum]
    refine ⟨?_, fun k => ?_⟩
    · have hle := bitValue_le n (g (Fin.last n))
      rw [Nat.pow_succ]
      omega
    · induction k using Fin.lastCases with
      | last => exact hlast
      | cast k => exact (hbelow k k.isLt).trans (hbit k)

/-- Every number of a STATUS is in the range of its field. -/
structure StatusBody.Fits (b : StatusBody) : Prop where
  occupancy : b.occupancy ≤ 255
  watchInUse : b.watchInUse ≤ 255
  counts : ∀ k : Fin 16, b.kinds[k].count ≤ 65535
  newest : ∀ n ∈ b.newest, n ≤ 16777215
  oldest : ∀ n ∈ b.oldest, n ≤ 16777215
  failingItem : ∀ i ∈ b.failingItem, i ≤ 255

/-- The byte that names the first error. -/
def StatusBody.firstErrorByte (b : StatusBody) : Nat :=
  match b.firstError with
  | some k => k.index.val
  | none => 255

/-- The flags of a STATUS in one byte. -/
def StatusBody.flags (b : StatusBody) : Nat := bitValue 0 b.drainPending + bitValue 1 b.newest.isSome + bitValue 2 b.oldest.isSome

/-- What stands before the counts of a STATUS. -/
def StatusBody.head (b : StatusBody) : List Byte :=
  put8 (b.station.code * 64 + b.strap.toNat) ++ put8 b.firstErrorByte ++ put16 (seenSet b.kinds)

/-- What stands behind the counts of a STATUS. -/
def StatusBody.tail (b : StatusBody) : List Byte :=
  put8 b.occupancy ++ put8 b.watchInUse ++ put8 b.flags ++ putSection b.newest ++ putSection b.oldest
    ++ put16 (b.marks.toNat / 65536) ++ put16 b.marks.toNat ++ put8 (b.failingItem.getD 0)

section
variable {b : StatusBody}

theorem layStatus_eq (b : StatusBody) : layStatus b = b.head ++ ((b.kinds.toList.flatMap fun r => put16 r.count) ++ b.tail) := by
  simp only [layStatus, StatusBody.head, StatusBody.tail, List.append_assoc]
  rfl

@[simp] theorem StatusBody.length_head (b : StatusBody) : b.head.length = 4 := by simp [StatusBody.head]

@[simp] theorem StatusBody.length_tail (b : StatusBody) : b.tail.length = 14 := by simp [StatusBody.tail, putSection]

@[simp] theorem length_counts (b : StatusBody) : (b.kinds.toList.flatMap fun r => put16 r.count).length = 32 :=
  (length_flatMap_of_length (fun r : KindRecord => length_put16 r.count) b.kinds.toList).trans (by rw [Vector.length_toList])

theorem length_layStatus (b : StatusBody) : (layStatus b).length = 50 := by simp [layStatus_eq]

theorem statusHead_laid (b : StatusBody) : numberAt (layStatus b) 0 1 = 64 * b.station.code + b.strap.toNat
    ∧ numberAt (layStatus b) 1 1 = b.firstErrorByte ∧ ∀ k : Fin 16, (numberAt (layStatus b) 2 2).testBit k.val = b.kinds[k].seen := by
  have hstation : b.station.code ≤ 3 := by cases b.station <;> decide
  have hstrap := b.strap.isLt
  have hfirst : b.firstErrorByte ≤ 255 := by
    cases hb : b.firstError with
    | none => simp [StatusBody.firstErrorByte, hb]
    | some k =>
      have hk := k.index.isLt
      simp only [StatusBody.firstErrorByte, hb]
      omega
  obtain ⟨hlt, hbit⟩ := sum_bitValue_testBit fun k : Fin 16 => b.kinds[k].seen
  have hmod : seenSet b.kinds % 65536 = seenSet b.kinds := Nat.mod_eq_of_lt hlt
  have hset : numberAt (layStatus b) 2 2 = seenSet b.kinds := by
    simp [layStatus_eq, StatusBody.head, numberAt_append_left, numberAt_append_right, hmod]
  refine ⟨?_, ?_, fun k => hset ▸ hbit k⟩ <;>
    simp [layStatus_eq, StatusBody.head, numberAt_append_left, numberAt_append_right] <;> omega

theorem statusCount_laid (h : b.Fits) (k : Fin 16) : numberAt (layStatus b) (4 + 2 * k.val) 2 = b.kinds[k].count := by
  have hk : b.kinds.toList[k.val]? = some b.kinds[k] := by simp
  have hcount := h.counts k
  have hentry := numberAt_entry (width := 2) (j := 0) b.length_head (fun r : KindRecord => length_put16 r.count) (le_refl 2) hk rfl
  rw [layStatus_eq, ← List.append_assoc, numberAt_append_left (by simp; omega)]
  refine hentry.trans ?_
  rw [numberAt_put16]
  omega

theorem statusTail_laid (h : b.Fits) : numberAt (layStatus b) 36 1 = b.occupancy ∧ numberAt (layStatus b) 37 1 = b.watchInUse
    ∧ numberAt (layStatus b) 38 1 = b.flags ∧ numberAt (layStatus b) 39 3 = b.newest.getD 0
    ∧ numberAt (layStatus b) 42 3 = b.oldest.getD 0 ∧ numberAt (layStatus b) 45 4 = b.marks.toNat
    ∧ numberAt (layStatus b) 49 1 = b.failingItem.getD 0 := by
  obtain ⟨hoccupancy, hwatch, -, hnewest, holdest, hfailing⟩ := h
  have hmarks := b.marks.isLt
  have h0 := bitValue_le 0 b.drainPending
  have h1 := bitValue_le 1 b.newest.isSome
  have h2 := bitValue_le 2 b.oldest.isSome
  have hnewest : b.newest.getD 0 ≤ 16777215 := by cases hn : b.newest <;> simp_all
  have holdest : b.oldest.getD 0 ≤ 16777215 := by cases hn : b.oldest <;> simp_all
  have hfailing : b.failingItem.getD 0 ≤ 255 := by cases hn : b.failingItem <;> simp_all
  rw [numberAt_four (by rw [length_layStatus]; omega), layStatus_eq]
  refine ⟨?_, ?_, ?_, ?_, ?_, ?_, ?_⟩ <;>
    simp [StatusBody.tail, StatusBody.flags, putSection, numberAt_append_left, numberAt_append_right] <;> omega

end

/-! ### The statement (R155, R181, R189, R190, R191) -/

/-- The header a telegram is sent under names its target and the length of its payload. -/
theorem frameOf_header {own : BitVec 4} {t : Telegram} (htarget : t.target ≤ 31) (hpayload : t.body.payload.length ≤ 255) :
    (frameOf own t).header.target.toNat = t.target ∧ (frameOf own t).header.length.toNat = t.body.payload.length :=
  ⟨(BitVec.toNat_ofNat _ _).trans (Nat.mod_eq_of_lt (by omega)), (BitVec.toNat_ofNat _ _).trans (Nat.mod_eq_of_lt (by omega))⟩

/-- Settles O53: each layout is its fields one after another, so each reads back as it was put; the readings of an ALERT and an EDGE follow
from where their fields are. -/
theorem alertAndEdgeLayouts : Obligations.AlertAndEdgeLayouts := by
  refine ⟨fun a h1 h2 h3 h4 h5 h6 h7 h8 => ?_, fun e h1 h2 h3 => ?_, ?_, by decide, by decide, fun own t htarget hpayload => ?_⟩
  · exact ⟨readAlert_layAlert ⟨h1, h2, h3, h4, h5, h6, h7, h8⟩, lengthAdmitted_layAlert a⟩
  · obtain ⟨hnumber, hside, hread, hcount⟩ := edge_read (e := e) ⟨h1, h2, h3⟩
    exact ⟨hnumber, hside, hread, hcount, lengthAdmitted_layEdge ⟨h1, h2, h3⟩⟩
  · intro number signed bit
    have hsigned (p : List Byte) (off : Nat) : signed p off = signedAt p off 2 := signedAt_two_eq.symm
    refine ⟨fun n hn => drained_laid hn, fun a h1 h2 h3 h4 h5 h6 h7 h8 => ?_, fun e h1 h2 h3 => ?_, fun r h1 h2 h3 h4 h5 h6 => ?_,
      fun b h1 h2 h3 h4 h5 h6 => ?_⟩
    · intro p
      rw [hsigned]
      exact ⟨length_layAlert a, alert_laid ⟨h1, h2, h3, h4, h5, h6, h7, h8⟩⟩
    · have h : e.Fits := ⟨h1, h2, h3⟩
      obtain ⟨hnumber, hside, hcount⟩ := edge_laid h
      exact ⟨length_layEdge e, hnumber, hside, hcount, fun i x hx => edgeEntry_laid h hx⟩
    · have h : r.Fits := ⟨h1, h2, h3, h4, h5, h6⟩
      obtain ⟨hnumber, hindex, hcount⟩ := report_laid h
      refine ⟨length_layReport h, hnumber, hindex, hcount, fun m w hm hw g1 g2 g3 g4 g5 g6 g7 g8 g9 g10 g11 => ?_, fun i x hx => ?_⟩
      · rw [hsigned]
        exact reportSummary_laid hm ⟨hw, g1, g2, g3, g4, g5, g6, g7, g8, g9, g10, g11⟩
      · obtain ⟨hbin, hentry⟩ := reportEntry_laid h hx
        intro at'
        rw [hsigned]
        exact ⟨hbin, hentry⟩
    · have h : b.Fits := ⟨h1, h2, h3, h4, h5, h6⟩
      obtain ⟨hstation, hfirst, hseen⟩ := statusHead_laid b
      exact ⟨length_layStatus b, hstation, hfirst, fun k => ⟨hseen k, statusCount_laid h k⟩, statusTail_laid h⟩
  · obtain ⟨hheader, hlength⟩ := frameOf_header (own := own) htarget hpayload
    obtain ⟨target, body⟩ := t
    refine ⟨?_, ?_, rfl, hheader, hlength, rfl⟩ <;> cases body <;> rfl

end Sys2Proof.Machine
